-- ==== Sys2Proof/Word.lean ====
section
/-! DEFINITION. The bit-vector types of the block's buses and registers (00_scope R10, R21): every value
is unsigned, and a natural number wherever the spec computes with one. -/

namespace Sys2Proof

/-- A byte: bus data, a VDP register, a cell of a memory. -/
abbrev Byte := BitVec 8

/-- A 16-bit value: a CPU address (R300), the VDP address register (R104), a command word (R310). -/
abbrev Word16 := BitVec 16

/-- A packed bus transaction (R300). -/
abbrev BusWord := BitVec 26

end Sys2Proof
end

