-- ==== Sys2Proof/Machine/Flags.lean ====
section
/-! DEFINITION. The VDP status flags (10_state R108): every way a flag is set or cleared. -/

namespace Sys2Proof.Machine

/-- F, bit 7 (R108). -/
def flagF (st : Byte) : Bool := st.getLsbD 7

/-- OVR, bit 6 (R108, C6). -/
def flagOvr (st : Byte) : Bool := st.getLsbD 6

/-- COL, bit 5 (R108, C6). -/
def flagCol (st : Byte) : Bool := st.getLsbD 5

/-- `status[7] <- 1`, the vblank event (R604). -/
def setF (st : Byte) : Byte := st ||| 0x80#8

/-- `status[6] <- 1` (R541). -/
def setOvr (st : Byte) : Byte := st ||| 0x40#8

/-- `status[5] <- 1` (R542). -/
def setCol (st : Byte) : Byte := st ||| 0x20#8

/-- `status[7], status[6], status[5] <- 0`, the status read (R540). -/
def clearFlags (st : Byte) : Byte := st &&& 0x1F#8

end Sys2Proof.Machine
end

