-- ==== Sys2Proof/Config.lean ====
section
/-! DEFINITION. What LOAD configures (00_scope R11, 10_state R115), and the free values: constants
without a body, of which no proof can learn a value. -/

namespace Sys2Proof

/-- REGION (R11, D27). -/
inductive Region
  | ntsc
  | pal
  deriving DecidableEq, Repr

/-- MAPPER_KIND (R400): the mapper set is closed. -/
inductive MapperKind
  | romOnly
  | segaBanked
  deriving DecidableEq, Repr

/-- SRAM_PAGE_SIZE (R11, D38): 0x2000 (the default) or 0x4000. -/
inductive SramPage
  | kb8
  | kb16
  deriving DecidableEq, Repr

/-- The number of bytes of one cartridge-RAM page, the `S` of 40_mapper. -/
def SramPage.size : SramPage → Nat
  | .kb8 => 0x2000
  | .kb16 => 0x4000

/-- LM, the line mode (R30, R600). -/
inductive LineMode
  | lines192
  | lines224
  | lines240
  deriving DecidableEq, Repr

/-- R601: active_height = LM. -/
def LineMode.height : LineMode → Nat
  | .lines192 => 192
  | .lines224 => 224
  | .lines240 => 240

/-- One RGB24 pixel, bytes in the order R, G, B (R207). -/
structure Rgb where
  r : Byte
  g : Byte
  b : Byte
  deriving DecidableEq, Repr

/-- VCOUNT_MAP (R11, D28) as data: for each region and line mode the bytes for line 0, 1, 2, … -/
structure VCountTables where
  ntsc192 : List Byte
  ntsc224 : List Byte
  ntsc240 : List Byte
  pal192 : List Byte
  pal224 : List Byte
  pal240 : List Byte
  deriving DecidableEq, Repr

/-- The configuration LOAD takes (R115, R901). LINES_PER_FRAME is held as the number of the last line
of each region, so that it is at least 1, as R109's `0 ≤ line < LINES_PER_FRAME` needs
(DESIGN CHOICE, log 7, safe). HCOUNT_FN is the list of its bytes for h = 0, 1, 2, … (log 5). -/
structure Configuration where
  rom : List Byte
  mapperKind : MapperKind
  bankCount : Nat
  region : Region
  lastLineNtsc : Nat
  lastLinePal : Nat
  vcount : VCountTables
  hcount : List Byte
  blankRgb : Rgb
  sramPage : SramPage
  deriving DecidableEq, Repr

/-- LINES_PER_FRAME of a region (R11). -/
def Configuration.linesIn (c : Configuration) : Region → Nat
  | .ntsc => c.lastLineNtsc + 1
  | .pal => c.lastLinePal + 1

/-- LINES_PER_FRAME(REGION) (R109, R602). -/
def Configuration.linesPerFrame (c : Configuration) : Nat := c.linesIn c.region

/-- The `S` of 40_mapper. -/
def Configuration.sramSize (c : Configuration) : Nat := c.sramPage.size

/-- The configuration that stands in the state before any LOAD, and the all-zero LOAD argument: no
image, no tables. DESIGN CHOICE (log 6, unsafe): the spec gives no configuration before LOAD; the frame lengths
are R11's reference values, the page size its default. -/
def Configuration.blank : Configuration where
  rom := []
  mapperKind := .romOnly
  bankCount := 1
  region := .ntsc
  lastLineNtsc := 261
  lastLinePal := 312
  vcount := ⟨[], [], [], [], [], []⟩
  hcount := []
  blankRgb := ⟨0, 0, 0⟩
  sramPage := .kb8

/-- `draw()` of R22: the n-th free byte, under no law (R702, R703, D30; log 4). -/
opaque Config.drawnByte : Nat → Byte

/-- What VCOUNT_MAP gives where the configured table lists no value (D28, N-01; log 5). -/
opaque Config.vcountUnlisted : Region → LineMode → Nat → Byte

/-- What HCOUNT_FN gives where the configured table lists no value (D29, N-02; log 5). -/
opaque Config.hcountUnlisted : Nat → Byte

end Sys2Proof
end

