-- ==== Sys2Proof/Machine/Operands.lean ====
section
/-! DEFINITION. Operand forms: the fields of bus words, ports, command words, tile descriptors and
colours, the address auto-increment and the memory indices. -/

namespace Sys2Proof.Machine

/-! ## Bus word (30_encoding R300) -/

/-- K, bits 25:24. -/
def busKind (w : BusWord) : BitVec 2 := w.extractLsb' 24 2

/-- A, bits 23:8. -/
def busAddr (w : BusWord) : Word16 := w.extractLsb' 8 16

/-- D, bits 7:0. -/
def busData (w : BusWord) : Byte := w.extractLsb' 0 8

/-- The port number, A[7:0] (R300, R701). -/
def busPort (w : BusWord) : Byte := w.extractLsb' 8 8

/-- The packed word K<<24 | A<<8 | D. -/
def busWord (k : BitVec 2) (a : Word16) (d : Byte) : BusWord := k ++ a ++ d

/-- The 16-bit bus address of a port, with the ignored A[15:8] zero. -/
def portAddr (p : Byte) : Word16 := 0#8 ++ p

/-! ## Port decode (43_io_decode R700) -/

/-- p[7:6]. -/
def portClass (p : Byte) : BitVec 2 := p.extractLsb' 6 2

/-- p[0] = 1. -/
def portOdd (p : Byte) : Bool := p.getLsbD 0

/-! ## Command word (R205, R310, R311) -/

/-- `cmd = {second, first}`. -/
def commandWord (second first : Byte) : Word16 := second ++ first

/-- CODE, bits 15:14. -/
def cmdCode (cmd : Word16) : BitVec 2 := cmd.extractLsb' 14 2

/-- ADDR, bits 13:0. -/
def cmdAddr (cmd : Word16) : BitVec 14 := cmd.extractLsb' 0 14

/-- The command word of a code and its fourteen low bits. -/
def mkCommand (code : BitVec 2) (a : BitVec 14) : Word16 := code ++ a

/-- REGN, bits 11:8 (R311). -/
def regNumber (a : BitVec 14) : BitVec 4 := a.extractLsb' 8 4

/-- VAL, bits 7:0 (R311, D9). -/
def regValue (a : BitVec 14) : Byte := a.extractLsb' 0 8

/-! ## Address register (41_vdp_ports R530 to R532) -/

/-- Inc, the auto-increment with its quirk (R530): the test reads the address before it is incremented. -/
def inc (a : Word16) : Word16 :=
  if a.extractLsb' 0 10 = 0#10 then 0xC000#16 else a + 1#16

/-- VIdx (R531). -/
def vIdx (a : Word16) : Nat := (a &&& 0x3FFF#16).toNat

/-- CIdx (R532). -/
def cIdx (a : Word16) : Nat := (a &&& 0x1F#16).toNat

/-! ## Tile descriptor (R206, R325, R614) -/

/-- `desc = {high, low}`. -/
def tileDescriptor (high low : Byte) : Word16 := high ++ low

/-- PAT, bits 8:0. -/
def descPattern (d : Word16) : Nat := (d.extractLsb' 0 9).toNat

/-- HF, bit 9. -/
def descHFlip (d : Word16) : Bool := d.getLsbD 9

/-- VF, bit 10. -/
def descVFlip (d : Word16) : Bool := d.getLsbD 10

/-- PAL, bit 11. -/
def descPalette (d : Word16) : Bool := d.getLsbD 11

/-- PRI, bit 12: read and ignored (R325, R621, D53). -/
def descPriority (d : Word16) : Bool := d.getLsbD 12

/-! ## Pattern row and colour (R326, R330, R331, R616, R618) -/

/-- The colour index of pixel column `px` in a pattern row of four plane bytes, 0 to 15 (R616). -/
def colourIndex (b0 b1 b2 b3 : Byte) (px : Nat) : Nat :=
  (b0.getLsbD (7 - px)).toNat + 2 * (b1.getLsbD (7 - px)).toNat +
    4 * (b2.getLsbD (7 - px)).toNat + 8 * (b3.getLsbD (7 - px)).toNat

/-- A 2-bit component as a byte: v × 0x55 (R331, D21). -/
def scaleComponent (v : BitVec 2) : Byte := v.setWidth 8 * 0x55#8

/-- The RGB24 pixel of a CRAM byte `--BBGGRR` (R330, R618). -/
def cramColour (c : Byte) : Rgb where
  r := scaleComponent (c.extractLsb' 0 2)
  g := scaleComponent (c.extractLsb' 2 2)
  b := scaleComponent (c.extractLsb' 4 2)

/-- The byte offset of pixel (x, y) in the framebuffer (R207). -/
def fbOffset (x y : Nat) : Nat := (y * 256 + x) * 3

/-! ## Mapper control byte 0xFFFC (R320) -/

/-- RAMEN, bit 3. -/
def ramEnable (c : Byte) : Bool := c.getLsbD 3

/-- RAMPG, bit 2, as a page number. -/
def ramPage (c : Byte) : Nat := (c.getLsbD 2).toNat

end Sys2Proof.Machine
end

