-- ==== Sys2Proof/Syntax.lean ====
section
/-! DEFINITION. The operations of the block: one constructor of Instr per row of
spec/opcode_table.json, and the records in which the two outside agents issue them (30_encoding). -/

namespace Sys2Proof

/-- One constructor per row of the opcode table: seventeen bus transactions (R301), four command
words (R312), seven host operations (R315). A port operand is the whole 8-bit port number, of which
the row fixes three or two bits (R700); the upper address byte of an I/O transaction is ignored (R701). -/
inductive Instr
  /-- MEM_RD, `RD [a]` (R410). -/
  | memRd (a : Word16)
  /-- MEM_WR_FFFC, `WR [0xFFFC], v` (R422). -/
  | memWrFffc (v : Byte)
  /-- MEM_WR_FFFD, `WR [0xFFFD], v` (R426). -/
  | memWrFffd (v : Byte)
  /-- MEM_WR_FFFE, `WR [0xFFFE], v` (R424). -/
  | memWrFffe (v : Byte)
  /-- MEM_WR_FFFF, `WR [0xFFFF], v` (R425). -/
  | memWrFfff (v : Byte)
  /-- MEM_WR, `WR [a], v` at any other address (R411). -/
  | memWr (a : Word16) (v : Byte)
  /-- IO_RD_VCOUNT, `IN (p)` (R550). -/
  | ioRdVcount (p : Byte)
  /-- IO_RD_HCOUNT, `IN (p)` (R551). -/
  | ioRdHcount (p : Byte)
  /-- IO_RD_DATA, `IN (p)` (R522). -/
  | ioRdData (p : Byte)
  /-- IO_RD_STATUS, `IN (p)` (R540). -/
  | ioRdStatus (p : Byte)
  /-- IO_RD_IGN_LO, `IN (p)` (R702). -/
  | ioRdIgnLo (p : Byte)
  /-- IO_RD_IGN_HI, `IN (p)` (R703). -/
  | ioRdIgnHi (p : Byte)
  /-- IO_WR_COUNTER, `OUT (p), v` (R704). -/
  | ioWrCounter (p v : Byte)
  /-- IO_WR_DATA, `OUT (p), v` (R520). -/
  | ioWrData (p v : Byte)
  /-- IO_WR_CTRL, `OUT (p), v` (R500). -/
  | ioWrCtrl (p v : Byte)
  /-- IO_WR_IGN_LO, `OUT (p), v` (R702). -/
  | ioWrIgnLo (p v : Byte)
  /-- IO_WR_IGN_HI, `OUT (p), v` (R703). -/
  | ioWrIgnHi (p v : Byte)
  /-- CMD_VRAM_READ, command bits 13:0 (R511). -/
  | cmdVramRead (a : BitVec 14)
  /-- CMD_VRAM_WRITE, command bits 13:0 (R513). -/
  | cmdVramWrite (a : BitVec 14)
  /-- CMD_REG_WRITE, command bits 13:0, which hold REGN in 11:8 and VAL in 7:0 (R311, R512). -/
  | cmdRegWrite (a : BitVec 14)
  /-- CMD_CRAM_WRITE, command bits 13:0 (R514). -/
  | cmdCramWrite (a : BitVec 14)
  /-- TICK, `TICK n` (R602). -/
  | tick (n : Nat)
  /-- SET_SPRITE_OVERFLOW, `SETOVR` (R541). -/
  | setSpriteOverflow
  /-- SET_SPRITE_COLLISION, `SETCOL` (R542). -/
  | setSpriteCollision
  /-- LOAD, `LOAD cfg` (R901). -/
  | load (cfg : Configuration)
  /-- READ_FB, `READFB` (R620). -/
  | readFb
  /-- HOST_RESERVED_5 (R806). -/
  | hostReserved5
  /-- HOST_RESERVED_6_7; the operand is bit 0 of the op number (R806). -/
  | hostReserved67 (low : Bool)
  deriving DecidableEq, Repr

/-- The argument of a host operation record (R315). -/
inductive HostArg
  | nothing
  | units (n : Nat)
  | config (cfg : Configuration)
  deriving DecidableEq, Repr

/-- What an outside agent issues (R2, R6): a bus transaction as its packed word (R300), or a host
operation record (op, arg) (R315). -/
inductive Request
  | bus (w : BusWord)
  | host (op : BitVec 3) (arg : HostArg)
  deriving DecidableEq, Repr

/-- What the block decodes: a bus transaction, a command word or a host operation (30_encoding, its
opening; `bus26`, `cmd16` and `host3` in the opcode table). -/
inductive Packet
  | bus (w : BusWord)
  | cmd (w : Word16)
  | host (op : BitVec 3) (arg : HostArg)
  deriving DecidableEq, Repr

end Sys2Proof
end

