-- ==== Sys2Proof/Machine/State.lean ====
section
/-! DEFINITION. The state of the block (10_state), the reasons a step can stop, and the state before
any LOAD. -/

namespace Sys2Proof.Machine

/-- A byte memory: cells (address, byte), addresses strictly rising, no byte 0x00 listed. An unlisted
byte reads 0x00, the reset contents R900 gives every memory (log 12). -/
abbrev Memory := List Host.Cell

/-- The reasons R800 records in `fault`, each with its recorded value. -/
inductive LoadFault
  /-- BANK_COUNT_NOT_POW2, with the bank count. -/
  | bankCountNotPow2 (count : Nat)
  /-- ROM_SIZE_MISMATCH, with the image length. -/
  | romSizeMismatch (length : Nat)
  deriving DecidableEq, Repr

/-- What an operation hands back (R2, R23). The framebuffer of READ_FB is `mode.height` rows in the byte
layout of R207, as a memory (log 15). -/
inductive Reply
  | none
  | byte (v : Byte)
  | vblank (b : Bool)
  | frame (mode : LineMode) (bytes : Memory)
  deriving DecidableEq, Repr

/-- The state of the block. The last three fields are the model's own, not the spec's. -/
structure State where
  /-- VRAM (R100). -/
  vram : Memory
  /-- CRAM (R101). -/
  cram : Memory
  /-- reg[0..15] (R102, R103). -/
  regs : Vector Byte 16
  /-- The address register, 16 bits (R104, C1). -/
  addr : Word16
  /-- The code of the last command word (R105). -/
  code : BitVec 2
  /-- "Second byte pending" (R106). -/
  pending : Bool
  /-- The first control byte (R106). -/
  latchLo : Byte
  /-- The data-port read buffer (R107). -/
  rbuf : Byte
  /-- The VDP status register (R108). -/
  status : Byte
  /-- The horizontal accumulator (R109). -/
  h : Nat
  /-- The current scanline (R109). -/
  line : Nat
  /-- FB, in the byte layout of R207 (R111). -/
  fb : Memory
  /-- MEM (R112). -/
  mem : Memory
  /-- ram_ctl (R113). -/
  ramCtl : Byte
  /-- slot1_page (R113). -/
  slot1Page : Byte
  /-- slot2_page (R113). -/
  slot2Page : Byte
  /-- SRAM (R114). -/
  sram : Memory
  /-- The configuration (R115). -/
  config : Configuration
  /-- Running or idle (R116). -/
  running : Bool
  /-- The sticky fault record (R117). -/
  fault : Option LoadFault
  /-- The model's own: operations issued and not yet taken (R2, R6; log 1). -/
  input : List Request
  /-- The model's own: what the last operation with a result handed back (log 3). -/
  reply : Reply
  /-- The model's own: how many free bytes have been drawn (R22, log 4). -/
  draws : Nat
  deriving DecidableEq, Repr

/-- Why the machine stops. -/
inductive Fault
  /-- Raised by a bank copy (R430) whose page does not lie inside the image, or with no banks: the
  source's out-of-range assertion (R801, I-03), out of reach after a valid LOAD. Safe: the model stops
  where the spec gives no byte (log 11). -/
  | bankOutOfImage
  deriving DecidableEq, Repr

/-- Why an operation is given no meaning. -/
inductive Refusal
  /-- Raised by `exec` alone for an instruction that has no meaning yet. Safe. -/
  | notModelled (mnemonic : String)
  /-- NOT_RUNNING (R803): raised by every operation but LOAD and the reserved host operations while
  `running` = 0. Safe: the spec's own refusal (log 9). -/
  | notRunning
  /-- UNKNOWN_HOST_OP (R806): raised by host operations 5, 6 and 7. Safe: the spec's own refusal (log 9). -/
  | unknownHostOp
  /-- Raised by `step` for a host record whose argument is not its op's (R315). Safe (log 14). -/
  | argumentMismatch
  deriving DecidableEq, Repr

/-- The outcome of an operation. -/
abbrev Outcome := Host.Outcome State Fault Refusal

/-- The state before any LOAD: every field at its value in R900, nothing loaded, not running, no
fault (R116, R117; log 13), and the blank configuration (log 6). -/
def State.reset : State where
  vram := []
  cram := []
  regs := Vector.replicate 16 0#8
  addr := 0#16
  code := 0#2
  pending := false
  latchLo := 0#8
  rbuf := 0#8
  status := 0#8
  h := 0
  line := 0
  fb := []
  mem := []
  ramCtl := 0x00#8
  slot1Page := 0x01#8
  slot2Page := 0x02#8
  sram := []
  config := Configuration.blank
  running := false
  fault := none
  input := []
  reply := .none
  draws := 0

end Sys2Proof.Machine
end

