-- ==== Sys2Proof/Machine/Ops.lean ====
section
/-! DEFINITION. The named operations over memories and state fields, the running check every operation
shares (R803), the record of a LOAD fault (R800), the command-word operations (R510 to R512), the data
port's accesses (R520 to R522), and the mapper's writes and copies (R412 to R430). -/

namespace Sys2Proof.Machine

/-! ## Byte memories -/

/-- Addresses strictly rising and no byte 0x00 listed. -/
abbrev Memory.wf (m : Memory) : Prop :=
  m.Pairwise (fun x y => x.1 < y.1) ∧ ∀ c ∈ m, c.2 ≠ 0#8

/-- Every listed address lies below `size`. -/
abbrev Memory.within (m : Memory) (size : Nat) : Prop := ∀ c ∈ m, c.1 < size

/-- The byte at an address; 0x00 where none is listed. -/
def Memory.read : Memory → Nat → Byte
  | [], _ => 0#8
  | (k, v) :: rest, a => if k = a then v else Memory.read rest a

/-- The cells of consecutive bytes from `base` on. -/
def Memory.cells (base : Nat) : List Byte → Memory
  | [] => []
  | v :: rest =>
    if v = 0#8 then Memory.cells (base + 1) rest else (base, v) :: Memory.cells (base + 1) rest

/-- The `len` bytes of `m` from `base` on replaced by what `new` lists there. -/
def Memory.splice (m : Memory) (base len : Nat) (new : Memory) : Memory :=
  m.filter (fun c => c.1 < base) ++ new ++ m.filter (fun c => base + len ≤ c.1)

/-- Consecutive bytes stored from `base` on. -/
def Memory.blit (m : Memory) (base : Nat) (bytes : List Byte) : Memory :=
  m.splice base bytes.length (Memory.cells base bytes)

/-- One byte stored. -/
def Memory.write (m : Memory) (a : Nat) (v : Byte) : Memory := m.blit a [v]

/-- The cells of the `len` bytes of `m` from `start` on, moved to `base`. -/
def Memory.slice (m : Memory) (start len base : Nat) : Memory :=
  (m.filter (fun c => start ≤ c.1 && c.1 < start + len)).map (fun c => (c.1 - start + base, c.2))

/-- The `len` bytes of `src` from `start` on copied to `base`. -/
def Memory.copyIn (m : Memory) (base len : Nat) (src : Memory) (start : Nat) : Memory :=
  m.splice base len (src.slice start len base)

/-! ## The running check and the fault record -/

/-- R803: while `running` = 0 the block refuses the operation, changing no state. -/
def State.whileRunning (s : State) (o : Outcome) : Outcome :=
  if s.running then o else .refused .notRunning

/-- R800: a fault is recorded, and the block stops running until the next LOAD. -/
def State.recordFault (s : State) (f : LoadFault) : State :=
  { s with fault := some f, running := false }

/-- The result of an operation, handed back to the agent that issued it (log 3). -/
def State.answer (s : State) (r : Reply) : State := { s with reply := r }

/-- A read that returns `draw()` (R22, R702): a fresh free byte (log 4). -/
def State.answerDrawn (s : State) : State :=
  { s with reply := .byte (Config.drawnByte s.draws), draws := s.draws + 1 }

/-! ## VDP registers, latch, address register -/

/-- `reg[n]`. -/
def State.reg (s : State) (n : Fin 16) : Byte := s.regs[n.val]

/-- `reg[n] <- v`: all eight bits are stored (R102). -/
def State.setReg (s : State) (n : BitVec 4) (v : Byte) : State :=
  { s with regs := s.regs.set n.toNat v n.isLt }

/-- The first control byte (R500, R106). -/
def State.latchFirst (s : State) (v : Byte) : State := { s with latchLo := v, pending := true }

/-- `pending <- 0` (R500, R520, R522, R540). -/
def State.clearPending (s : State) : State := { s with pending := false }

/-- `addr <- Inc(addr)` (R530). -/
def State.advance (s : State) : State := { s with addr := inc s.addr }

/-- R510: every code loads `addr` from cmd[13:0] and `code` from cmd[15:14]. -/
def State.loadCommand (s : State) (code : BitVec 2) (a : BitVec 14) : State :=
  { s with addr := a.setWidth 16, code := code }

/-- `rbuf <- VRAM[VIdx(addr)]; addr <- Inc(addr)` (R511, R522). -/
def State.prime (s : State) : State :=
  State.advance { s with rbuf := s.vram.read (vIdx s.addr) }

/-- The store of a data-port write: CRAM in code 3, VRAM otherwise (R520, R521). -/
def State.storeData (s : State) (v : Byte) : State :=
  if s.code = 3#2 then { s with cram := s.cram.write (cIdx s.addr) v }
  else { s with vram := s.vram.write (vIdx s.addr) v }

/-- The status register written (R108). -/
def State.setStatus (s : State) (st : Byte) : State := { s with status := st }

/-- The effect of a command word, run by the second control byte (R500, R510 to R514). -/
def State.execCommand (s : State) (code : BitVec 2) (a : BitVec 14) : State :=
  if code = 0#2 then (s.loadCommand code a).prime
  else if code = 2#2 then (s.loadCommand code a).setReg (regNumber a) (regValue a)
  else s.loadCommand code a

/-! ## CPU memory and mapper -/

/-- `MEM[a] <- v`. -/
def State.store (s : State) (a : Nat) (v : Byte) : State := { s with mem := s.mem.write a v }

/-- RomOnlyRamWrite (R413). -/
def State.romOnlyRamWrite (s : State) (a : Word16) (v : Byte) : State :=
  if a < 0xE000#16 then (s.store a.toNat v).store (a.toNat + 0x2000) v
  else (s.store a.toNat v).store (a.toNat - 0x2000) v

/-- SegaRamWrite (R414). -/
def State.segaRamWrite (s : State) (a : Word16) (v : Byte) : State :=
  if a ≤ 0xDFFB#16 then (s.store a.toNat v).store (a.toNat + 0x2000) v
  else if a ≤ 0xDFFF#16 then s.store a.toNat v
  else (s.store a.toNat v).store (a.toNat - 0x2000) v

/-- Slot2RamWrite (R412): write-through to the mapped cartridge-RAM page. -/
def State.slot2RamWrite (s : State) (a : Word16) (v : Byte) : State :=
  if a.toNat - 0x8000 < s.config.sramSize then
    { s.store a.toNat v with
      sram := s.sram.write (ramPage s.ramCtl * s.config.sramSize + (a.toNat - 0x8000)) v }
  else s.store a.toNat v

/-- The 0x4000 bytes of ROM page `q`. -/
def romPage (rom : List Byte) (q : Nat) : List Byte := (rom.drop (q * 0x4000)).take 0x4000

/-- The ROM page a page index selects: `p mod BC` (R430). -/
def pageOf (c : Configuration) (p : Byte) : Nat := p.toNat % c.bankCount

/-- Page `q` lies inside the image, and there are banks (R401, R801). -/
def pageInImage (c : Configuration) (q : Nat) : Bool :=
  decide (0 < c.bankCount) && decide ((q + 1) * 0x4000 ≤ c.rom.length)

/-- CopyRomPage(p, base) (R430). A page outside the image is the out-of-range assertion of R801 (log 11). -/
def State.copyRomPage (s : State) (p : Byte) (base : Nat) : Outcome :=
  if pageInImage s.config (pageOf s.config p) then
    .next { s with mem := s.mem.blit base (romPage s.config.rom (pageOf s.config p)) }
  else .fault .bankOutOfImage

/-- The map-in of cartridge-RAM page `ram_ctl[2]`: S bytes, the rest of slot 2 unchanged (R423). -/
def State.copySramPage (s : State) : State :=
  { s with
    mem := s.mem.copyIn 0x8000 s.config.sramSize s.sram (ramPage s.ramCtl * s.config.sramSize) }

/-- RemapSlot2 (R423). -/
def State.remapSlot2 (s : State) : Outcome :=
  if ramEnable s.ramCtl then .next s.copySramPage else s.copyRomPage s.slot2Page 0x8000

end Sys2Proof.Machine
end

