-- ==== Sys2Proof/Machine/Commands.lean ====
section
/-! DEFINITION. The command words (41_vdp_ports R510 to R514), one meaning per row. A command word is
run by the second control byte, which clears `pending` first (R500; log 10). -/

namespace Sys2Proof.Machine

/-- CMD_VRAM_READ (R511). -/
def execCmdVramRead (a : BitVec 14) (s : State) : Outcome :=
  s.whileRunning (.next (s.clearPending.execCommand 0#2 a))

/-- CMD_VRAM_WRITE (R513). -/
def execCmdVramWrite (a : BitVec 14) (s : State) : Outcome :=
  s.whileRunning (.next (s.clearPending.execCommand 1#2 a))

/-- CMD_REG_WRITE (R512). -/
def execCmdRegWrite (a : BitVec 14) (s : State) : Outcome :=
  s.whileRunning (.next (s.clearPending.execCommand 2#2 a))

/-- CMD_CRAM_WRITE (R514). -/
def execCmdCramWrite (a : BitVec 14) (s : State) : Outcome :=
  s.whileRunning (.next (s.clearPending.execCommand 3#2 a))

end Sys2Proof.Machine
end

