-- ==== Sys2Proof/Machine/Header.lean ====
section
/-! DEFINITION. The cartridge header (30_encoding R335), the validity of an image (R403), the checks LOAD
makes of a configuration (40_mapper R401) and the bank count a loader may derive (R402). -/

namespace Sys2Proof.Machine

/-- "TMR SEGA" in ASCII (R335). -/
def signature : List Byte :=
  [0x54#8, 0x4D#8, 0x52#8, 0x20#8, 0x53#8, 0x45#8, 0x47#8, 0x41#8]

/-- The signature stands at an offset; an image too short for it fails the test (R901). -/
def signatureAt (rom : List Byte) (offset : Nat) : Bool :=
  (rom.drop offset).take 8 == signature

/-- H, the header offset, searched in the priority order 0x7FF0, 0x3FF0, 0x1FF0 (R335, C11). -/
def headerOffset (rom : List Byte) : Option Nat :=
  [0x7FF0, 0x3FF0, 0x1FF0].find? (signatureAt rom)

/-- A ROM is valid only if the signature is found (R403). -/
def romValid (rom : List Byte) : Bool := (headerOffset rom).isSome

/-- The size/region byte, at H + 15 (R335). -/
def sizeRegionByte (rom : List Byte) : Option Byte :=
  match headerOffset rom with
  | some off => rom[off + 15]?
  | none => none

/-- The size code, low nibble of the size/region byte (R335). -/
def sizeCode (b : Byte) : BitVec 4 := b.extractLsb' 0 4

/-- The region code, high nibble of the size/region byte (R335). -/
def regionCode (b : Byte) : BitVec 4 := b.extractLsb' 4 4

/-- The image size a size code names, in bytes; codes 3 to 9 are not in the table (R335). -/
def sizeOfCode (c : BitVec 4) : Option Nat :=
  match c.toNat with
  | 0x0 => some (256 * 1024)
  | 0x1 => some (512 * 1024)
  | 0x2 => some (1024 * 1024)
  | 0xA => some (8 * 1024)
  | 0xB => some (16 * 1024)
  | 0xC => some (32 * 1024)
  | 0xD => some (48 * 1024)
  | 0xE => some (64 * 1024)
  | 0xF => some (128 * 1024)
  | _ => none

/-- The region a region code names (R335). -/
inductive HeaderRegion
  | smsJapan
  | smsExport
  | ggJapan
  | ggExport
  | ggInternational
  deriving DecidableEq, Repr

/-- The region codes of R335; other values are not in the table. -/
def regionOfCode (c : BitVec 4) : Option HeaderRegion :=
  match c.toNat with
  | 3 => some .smsJapan
  | 4 => some .smsExport
  | 5 => some .ggJapan
  | 6 => some .ggExport
  | 7 => some .ggInternational
  | _ => none

/-- `BC = max(1, size / 0x4000)`, what a loader may derive from a size code (R402). -/
def deriveBankCount (c : BitVec 4) : Option Nat :=
  (sizeOfCode c).map (fun size => max 1 (size / 0x4000))

/-- `BC ≥ 1` and `BC & (BC - 1) = 0`: a power of two (R401, R901). -/
def bankCountOk (bc : Nat) : Bool := decide (bc ≠ 0) && decide (bc &&& (bc - 1) = 0)

/-- The bank-count check, for SegaBanked only (R401). -/
def bankCheck (c : Configuration) : Bool :=
  match c.mapperKind with
  | .romOnly => true
  | .segaBanked => bankCountOk c.bankCount

/-- The image-length check (R401). -/
def lengthCheck (c : Configuration) : Bool :=
  match c.mapperKind with
  | .romOnly => decide (c.rom.length ≤ 0xC000)
  | .segaBanked => decide (c.rom.length = c.bankCount * 0x4000)

end Sys2Proof.Machine
end

