-- ==== Sys2Proof/Machine/Render.lean ====
section
/-! DEFINITION. The line mode and the scanline renderer (42_vdp_render R600, R605 to R619), and the two
counters' values (R550, R551). Every number is a natural (R21). -/

namespace Sys2Proof.Machine

/-! ## Line mode -/

/-- LineMode(reg[0], reg[1], REGION) (R600): M1 = reg[1][4], M2 = reg[0][1], M3 = reg[1][3], M4 = reg[0][2]. -/
def lineModeOf (reg0 reg1 : Byte) (region : Region) : LineMode :=
  if reg0.getLsbD 2 && reg0.getLsbD 1 && reg1.getLsbD 4 && !reg1.getLsbD 3 then .lines224
  else if reg0.getLsbD 2 && reg0.getLsbD 1 && reg1.getLsbD 3 && !reg1.getLsbD 4 then
    match region with
    | .pal => .lines240
    | .ntsc => .lines192
  else .lines192

/-- LM, computed afresh each time it is read (R110, R600). -/
def State.lineMode (s : State) : LineMode := lineModeOf (s.reg 0) (s.reg 1) s.config.region

/-- active_height (R601). -/
def State.activeHeight (s : State) : Nat := s.lineMode.height

/-! ## Counters -/

/-- The configured table of a region and line mode (D28). -/
def vcountTable (t : VCountTables) : Region → LineMode → List Byte
  | .ntsc, .lines192 => t.ntsc192
  | .ntsc, .lines224 => t.ntsc224
  | .ntsc, .lines240 => t.ntsc240
  | .pal, .lines192 => t.pal192
  | .pal, .lines224 => t.pal224
  | .pal, .lines240 => t.pal240

/-- VCOUNT_MAP(REGION, LM, line) (R550; log 5). -/
def vcountMap (c : Configuration) (lm : LineMode) (line : Nat) : Byte :=
  ((vcountTable c.vcount c.region lm)[line]?).getD (Config.vcountUnlisted c.region lm line)

/-- HCOUNT_FN(h) (R551; log 5). -/
def hcountFn (c : Configuration) (h : Nat) : Byte :=
  (c.hcount[h]?).getD (Config.hcountUnlisted h)

/-! ## Background -/

/-- Horizontal scroll of a line (R611). -/
def State.hScroll (s : State) (line : Nat) : Nat :=
  if (s.reg 0).getLsbD 6 && decide (line < 16) then 0 else (s.reg 8).toNat

/-- Vertical scroll of a pixel column (R612). -/
def State.vScroll (s : State) (x : Nat) : Nat :=
  if (s.reg 0).getLsbD 7 && decide (192 ≤ x) then 0 else (s.reg 9).toNat

/-- Name-table base (R613). -/
def nameTableBase (reg2 : Byte) (lm : LineMode) : Nat :=
  match lm with
  | .lines192 => (reg2 &&& 0x0E#8).toNat <<< 10
  | _ => ((reg2 &&& 0x0C#8).toNat <<< 10) ||| 0x0700

/-- VH, the height at which the background wraps (R614). -/
def wrapHeight : LineMode → Nat
  | .lines192 => 224
  | _ => 256

/-- bx, the background column of a pixel: `(x - hs) mod 256`, non-negative (R614; hs ≤ 255). -/
def State.bgX (s : State) (line x : Nat) : Nat := (x + 256 - s.hScroll line) % 256

/-- by, the background row of a pixel (R614). -/
def State.bgY (s : State) (line x : Nat) : Nat := (line + s.vScroll x) % wrapHeight s.lineMode

/-- e, the VRAM address of a pixel's tile descriptor (R614). -/
def State.descAddr (s : State) (line x : Nat) : Nat :=
  (nameTableBase (s.reg 2) s.lineMode +
    (s.bgY line x / 8 * 32 + s.bgX line x / 8) * 2) % 0x4000

/-- desc, little-endian from two VRAM bytes (R206, R614). -/
def State.descAt (s : State) (e : Nat) : Word16 :=
  tileDescriptor (s.vram.read ((e + 1) % 0x4000)) (s.vram.read e)

/-- pa, the VRAM address of a pattern row, with the vertical flip (R615). -/
def patternRow (desc : Word16) (fy : Nat) : Nat :=
  descPattern desc * 32 + (if descVFlip desc then 7 - fy else fy) * 4

/-- px, the pixel column inside the pattern row, with the horizontal flip (R615). -/
def patternColumn (desc : Word16) (fx : Nat) : Nat := if descHFlip desc then 7 - fx else fx

/-- ci before palette selection (R616): the four plane bytes at `pa`, pixel column `px`. -/
def State.planeIndex (s : State) (pa px : Nat) : Nat :=
  colourIndex (s.vram.read pa) (s.vram.read (pa + 1)) (s.vram.read (pa + 2)) (s.vram.read (pa + 3)) px

/-- ci with palette selection (R617). -/
def State.paletteIndex (s : State) (desc : Word16) (fx fy : Nat) : Nat :=
  s.planeIndex (patternRow desc fy) (patternColumn desc fx) + (if descPalette desc then 16 else 0)

/-- BgPixel(L, x), the composition of R611 to R618 (R619). -/
def State.bgPixel (s : State) (line x : Nat) : Rgb :=
  cramColour (s.cram.read
    (s.paletteIndex (s.descAt (s.descAddr line x)) (s.bgX line x % 8) (s.bgY line x % 8)))

/-! ## A line -/

/-- The pixels the renderer paints on an active line: blank or background (R605, R610). -/
def State.linePixel (s : State) (line x : Nat) : Rgb :=
  if (s.reg 1).getLsbD 6 then s.bgPixel line x else s.config.blankRgb

/-- The bytes of a row of pixels, R, G, B each (R207). -/
def pixelBytes (pixels : List Rgb) : List Byte := pixels.flatMap (fun p => [p.r, p.g, p.b])

/-- RenderLine(L) (R605): an active line's 256 pixels are written, any other line is left alone. -/
def State.renderLine (s : State) (line : Nat) : State :=
  if s.activeHeight ≤ line then s
  else
    { s with
      fb := s.fb.blit (fbOffset 0 line) (pixelBytes ((List.range 256).map (s.linePixel line))) }

end Sys2Proof.Machine
end

