-- ==== Sys2Proof/Machine/HostOps.lean ====
section
/-! DEFINITION. The host operations (30_encoding R315): TICK, the sprite hooks, LOAD, READ_FB and the
reserved numbers, one meaning per row. -/

namespace Sys2Proof.Machine

/-! ## TICK -/

/-- VblankEvent (R604). -/
def State.vblankEvent (s : State) : State := s.setStatus (setF s.status)

/-- `line <- (line + 1) mod LINES_PER_FRAME` (R602). -/
def State.advanceLine (s : State) : State :=
  { s with line := (s.line + 1) % s.config.linesPerFrame }

/-- The body of TICK's loop, but for h (R602, R811): advance the line, render the completed line, then
the vblank test; the Bool says that the event happened. -/
def State.crossLine (s : State) : State × Bool :=
  let t := s.advanceLine.renderLine s.line
  if t.line = t.activeHeight then (t.vblankEvent, true) else (t, false)

/-- `k` crossings; the Bool is TICK's `vbl`. -/
def State.crossLines : Nat → State → Bool → State × Bool
  | 0, s, vbl => (s, vbl)
  | k + 1, s, vbl => State.crossLines k s.crossLine.1 (vbl || s.crossLine.2)

/-- What is left of h when every crossing has taken its 684 units (R602). -/
def State.keepRemainder (s : State) : State := { s with h := s.h % 684 }

/-- `while h ≥ 684` (R602): each crossing takes 684 from h, so the loop runs h / 684 times and leaves
h mod 684. No crossing reads h. -/
def State.tickLoop (s : State) : State × Bool :=
  ((State.crossLines (s.h / 684) s false).1.keepRemainder, (State.crossLines (s.h / 684) s false).2)

/-- `h <- h + n`. -/
def State.addUnits (s : State) (n : Nat) : State := { s with h := s.h + n }

/-- TICK (R602). -/
def execTick (n : Nat) (s : State) : Outcome :=
  s.whileRunning
    (.next ((s.addUnits n).tickLoop.1.answer (.vblank (s.addUnits n).tickLoop.2)))

/-! ## Status hooks -/

/-- SET_SPRITE_OVERFLOW (R541). -/
def execSetSpriteOverflow (s : State) : Outcome :=
  s.whileRunning (.next (s.setStatus (setOvr s.status)))

/-- SET_SPRITE_COLLISION (R542). -/
def execSetSpriteCollision (s : State) : Outcome :=
  s.whileRunning (.next (s.setStatus (setCol s.status)))

/-! ## LOAD -/

/-- MEM under RomOnly (R440): the image, then 0x00. -/
def romOnlyMem (c : Configuration) : Memory := Memory.blit [] 0 c.rom

/-- MEM under SegaBanked (R441): page 0 fixed, pages 1 and 2 in slots 1 and 2. -/
def segaMem (c : Configuration) : Memory :=
  ((Memory.blit [] 0 (romPage c.rom 0)).blit 0x4000 (romPage c.rom (pageOf c 1#8))).blit 0x8000
    (romPage c.rom (pageOf c 2#8))

/-- MapperInit's MEM (R901). -/
def initialMem (c : Configuration) : Memory :=
  match c.mapperKind with
  | .romOnly => romOnlyMem c
  | .segaBanked => segaMem c

/-- The state a valid LOAD leaves (R900, R901): every state at its reset value, the configuration
installed, the mapper initialised, running. The operations still waiting and the count of draws are
the outside world's and stay (log 13). -/
def State.loaded (s : State) (c : Configuration) : State :=
  { State.reset with
    config := c
    mem := initialMem c
    running := true
    input := s.input
    draws := s.draws }

/-- LOAD (R901): the signature, the bank count and the image length are checked in this order (R811).
An invalid or faulting LOAD leaves the rest of the state (R403, R802; log 8). It is accepted in any state. -/
def execLoad (c : Configuration) (s : State) : Outcome :=
  if romValid c.rom then
    if bankCheck c then
      if lengthCheck c then .next (s.loaded c)
      else .next (s.recordFault (.romSizeMismatch c.rom.length))
    else .next (s.recordFault (.bankCountNotPow2 c.bankCount))
  else .next { s with running := false }

/-! ## READ_FB and the reserved numbers -/

/-- The bytes of FB[0 .. LM-1] in the layout of R207. -/
def State.frameBytes (s : State) : Memory :=
  s.fb.filter (fun c => c.1 < fbOffset 0 s.activeHeight)

/-- READ_FB (R620): no state changes. -/
def execReadFb (s : State) : Outcome :=
  s.whileRunning (.next (s.answer (.frame s.lineMode s.frameBytes)))

/-- HOST_RESERVED_5 (R806): refused UNKNOWN_HOST_OP. -/
def execHostReserved5 (_s : State) : Outcome := .refused .unknownHostOp

/-- HOST_RESERVED_6_7 (R806): refused UNKNOWN_HOST_OP. -/
def execHostReserved67 (_low : Bool) (_s : State) : Outcome := .refused .unknownHostOp

end Sys2Proof.Machine
end

