-- ==== Sys2Proof/Machine/Mapper.lean ====
section
/-! DEFINITION. The memory transactions and mapper control writes (40_mapper), one meaning per row. -/

namespace Sys2Proof.Machine

/-- MEM_RD (R410): the mapper keeps the active pages in MEM, so a read needs no translation. -/
def execMemRd (a : Word16) (s : State) : Outcome :=
  s.whileRunning (.next (s.answer (.byte (s.mem.read a.toNat))))

/-- MEM_WR (R411, R415): a dropped write changes no state. -/
def execMemWr (a : Word16) (v : Byte) (s : State) : Outcome :=
  s.whileRunning <|
    match s.config.mapperKind with
    | .romOnly => if a < 0xC000#16 then .next s else .next (s.romOnlyRamWrite a v)
    | .segaBanked =>
      if a < 0x8000#16 then .next s
      else if a < 0xC000#16 then
        if ramEnable s.ramCtl then .next (s.slot2RamWrite a v) else .next s
      else .next (s.segaRamWrite a v)

/-- MEM_WR_FFFC (R422). -/
def execMemWrFffc (v : Byte) (s : State) : Outcome :=
  s.whileRunning <|
    match s.config.mapperKind with
    | .romOnly => .next (s.romOnlyRamWrite 0xFFFC#16 v)
    | .segaBanked => State.remapSlot2 { s.store 0xFFFC v with ramCtl := v }

/-- MEM_WR_FFFD (R426): stored, with no bank effect; slot 0 is fixed (C8). -/
def execMemWrFffd (v : Byte) (s : State) : Outcome :=
  s.whileRunning <|
    match s.config.mapperKind with
    | .romOnly => .next (s.romOnlyRamWrite 0xFFFD#16 v)
    | .segaBanked => .next (s.store 0xFFFD v)

/-- MEM_WR_FFFE (R424). -/
def execMemWrFffe (v : Byte) (s : State) : Outcome :=
  s.whileRunning <|
    match s.config.mapperKind with
    | .romOnly => .next (s.romOnlyRamWrite 0xFFFE#16 v)
    | .segaBanked => State.copyRomPage { s.store 0xFFFE v with slot1Page := v } v 0x4000

/-- MEM_WR_FFFF (R425): while slot 2 is RAM-backed the write only records the page. -/
def execMemWrFfff (v : Byte) (s : State) : Outcome :=
  s.whileRunning <|
    match s.config.mapperKind with
    | .romOnly => .next (s.romOnlyRamWrite 0xFFFF#16 v)
    | .segaBanked =>
      if ramEnable s.ramCtl then .next { s.store 0xFFFF v with slot2Page := v }
      else State.copyRomPage { s.store 0xFFFF v with slot2Page := v } v 0x8000

end Sys2Proof.Machine
end

