-- ==== Sys2Proof/Machine/Ports.lean ====
section
/-! DEFINITION. The I/O port transactions (41_vdp_ports, 43_io_decode), one meaning per row. The port
number beyond its class and parity has no effect (R700). -/

namespace Sys2Proof.Machine

/-- IO_RD_VCOUNT (R550): no side effect. -/
def execIoRdVcount (_p : Byte) (s : State) : Outcome :=
  s.whileRunning (.next (s.answer (.byte (vcountMap s.config s.lineMode s.line))))

/-- IO_RD_HCOUNT (R551): no side effect. -/
def execIoRdHcount (_p : Byte) (s : State) : Outcome :=
  s.whileRunning (.next (s.answer (.byte (hcountFn s.config s.h))))

/-- IO_RD_DATA (R522): the buffered byte is returned, then the buffer is refilled from VRAM. -/
def execIoRdData (_p : Byte) (s : State) : Outcome :=
  s.whileRunning (.next (s.clearPending.prime.answer (.byte s.rbuf)))

/-- IO_RD_STATUS (R540): returns the status and clears F, OVR, COL and `pending`. -/
def execIoRdStatus (_p : Byte) (s : State) : Outcome :=
  s.whileRunning
    (.next (((s.setStatus (clearFlags s.status)).clearPending).answer (.byte s.status)))

/-- IO_RD_IGN_LO (R702): a free draw, no state change. -/
def execIoRdIgnLo (_p : Byte) (s : State) : Outcome := s.whileRunning (.next s.answerDrawn)

/-- IO_RD_IGN_HI (R703): as R702. -/
def execIoRdIgnHi (_p : Byte) (s : State) : Outcome := s.whileRunning (.next s.answerDrawn)

/-- IO_WR_COUNTER (R704): the counters are read-only, no state change. -/
def execIoWrCounter (_p _v : Byte) (s : State) : Outcome := s.whileRunning (.next s)

/-- IO_WR_DATA (R520, R521): `pending <- 0`, the store, `rbuf <- v`, `addr <- Inc(addr)`. -/
def execIoWrData (_p v : Byte) (s : State) : Outcome :=
  s.whileRunning
    (.next (State.advance { s.clearPending.storeData v with rbuf := v }))

/-- IO_WR_CTRL (R500): the first byte is latched, the second runs the command word {v, latch_lo}. -/
def execIoWrCtrl (_p v : Byte) (s : State) : Outcome :=
  s.whileRunning <|
    if s.pending then
      .next (s.clearPending.execCommand (cmdCode (commandWord v s.latchLo))
        (cmdAddr (commandWord v s.latchLo)))
    else .next (s.latchFirst v)

/-- IO_WR_IGN_LO (R702): no state change. -/
def execIoWrIgnLo (_p _v : Byte) (s : State) : Outcome := s.whileRunning (.next s)

/-- IO_WR_IGN_HI (R703): no state change. -/
def execIoWrIgnHi (_p _v : Byte) (s : State) : Outcome := s.whileRunning (.next s)

end Sys2Proof.Machine
end

