-- ==== Sys2Proof/Machine/Dispatch.lean ====
section
/-! DEFINITION. The meaning of each instruction, one arm per row of the opcode table. -/

namespace Sys2Proof.Machine

def exec (i : Instr) (s : State) : Host.Outcome State Fault Refusal :=
  match i with
  | .memRd a => Sys2Proof.Machine.execMemRd a s
  | .memWrFffc v => Sys2Proof.Machine.execMemWrFffc v s
  | .memWrFffd v => Sys2Proof.Machine.execMemWrFffd v s
  | .memWrFffe v => Sys2Proof.Machine.execMemWrFffe v s
  | .memWrFfff v => Sys2Proof.Machine.execMemWrFfff v s
  | .memWr a v => Sys2Proof.Machine.execMemWr a v s
  | .ioRdVcount p => Sys2Proof.Machine.execIoRdVcount p s
  | .ioRdHcount p => Sys2Proof.Machine.execIoRdHcount p s
  | .ioRdData p => Sys2Proof.Machine.execIoRdData p s
  | .ioRdStatus p => Sys2Proof.Machine.execIoRdStatus p s
  | .ioRdIgnLo p => Sys2Proof.Machine.execIoRdIgnLo p s
  | .ioRdIgnHi p => Sys2Proof.Machine.execIoRdIgnHi p s
  | .ioWrCounter p v => Sys2Proof.Machine.execIoWrCounter p v s
  | .ioWrData p v => Sys2Proof.Machine.execIoWrData p v s
  | .ioWrCtrl p v => Sys2Proof.Machine.execIoWrCtrl p v s
  | .ioWrIgnLo p v => Sys2Proof.Machine.execIoWrIgnLo p v s
  | .ioWrIgnHi p v => Sys2Proof.Machine.execIoWrIgnHi p v s
  | .cmdVramRead a => Sys2Proof.Machine.execCmdVramRead a s
  | .cmdVramWrite a => Sys2Proof.Machine.execCmdVramWrite a s
  | .cmdRegWrite a => Sys2Proof.Machine.execCmdRegWrite a s
  | .cmdCramWrite a => Sys2Proof.Machine.execCmdCramWrite a s
  | .tick n => Sys2Proof.Machine.execTick n s
  | .setSpriteOverflow => Sys2Proof.Machine.execSetSpriteOverflow s
  | .setSpriteCollision => Sys2Proof.Machine.execSetSpriteCollision s
  | .load cfg => Sys2Proof.Machine.execLoad cfg s
  | .readFb => Sys2Proof.Machine.execReadFb s
  | .hostReserved5 => Sys2Proof.Machine.execHostReserved5 s
  | .hostReserved67 low => Sys2Proof.Machine.execHostReserved67 low s

end Sys2Proof.Machine
end

