-- ==== Sys2Proof/WellFormed.lean ====
section
/-! DEFINITION. Which terms of Instr are instructions: the operand lies in its row of the opcode
table (30_encoding R301, 43_io_decode R700). Every decoded instruction is well formed. -/

namespace Sys2Proof

/-- The operand conditions of R301: MEM_WR stands only for addresses that no control-byte row takes,
and a port lies in its row's class (p[7:6]) and, for the counter, data and control rows, has its
row's parity (p[0]). Every other operand is free. -/
def Instr.wf : Instr → Bool
  | .memRd _ => true
  | .memWrFffc _ => true
  | .memWrFffd _ => true
  | .memWrFffe _ => true
  | .memWrFfff _ => true
  | .memWr a _ => decide (a < 0xFFFC#16)
  | .ioRdVcount p => Machine.portClass p == 1#2 && !Machine.portOdd p
  | .ioRdHcount p => Machine.portClass p == 1#2 && Machine.portOdd p
  | .ioRdData p => Machine.portClass p == 2#2 && !Machine.portOdd p
  | .ioRdStatus p => Machine.portClass p == 2#2 && Machine.portOdd p
  | .ioRdIgnLo p => Machine.portClass p == 0#2
  | .ioRdIgnHi p => Machine.portClass p == 3#2
  | .ioWrCounter p _ => Machine.portClass p == 1#2
  | .ioWrData p _ => Machine.portClass p == 2#2 && !Machine.portOdd p
  | .ioWrCtrl p _ => Machine.portClass p == 2#2 && Machine.portOdd p
  | .ioWrIgnLo p _ => Machine.portClass p == 0#2
  | .ioWrIgnHi p _ => Machine.portClass p == 3#2
  | .cmdVramRead _ => true
  | .cmdVramWrite _ => true
  | .cmdRegWrite _ => true
  | .cmdCramWrite _ => true
  | .tick _ => true
  | .setSpriteOverflow => true
  | .setSpriteCollision => true
  | .load _ => true
  | .readFb => true
  | .hostReserved5 => true
  | .hostReserved67 _ => true

/-- The well-formed instructions. -/
abbrev Instr.WellFormed (i : Instr) : Prop := i.wf = true

end Sys2Proof
end

