-- ==== Sys2Proof/Decode.lean ====
section
/-! DEFINITION. Decoding and encoding (30_encoding): bus words by the first matching row of R301,
command words by their code (R312), host operations by their number (R315); the word-level entry the
opcode table's numbering asks for; and the pseudo-operations of R346. -/

namespace Sys2Proof

open Machine

/-- Why a packet is no instruction. -/
inductive DecodeError
  /-- A host operation record whose argument is not the one R315 gives its op. -/
  | argumentMismatch
  deriving DecidableEq, Repr

/-! ## Decoding -/

/-- Rows 1 to 17 of R301, tried in order; the table is total. -/
def decodeBus (w : BusWord) : Instr :=
  if busKind w = 0#2 then .memRd (busAddr w)
  else if busKind w = 1#2 then
    if busAddr w = 0xFFFC#16 then .memWrFffc (busData w)
    else if busAddr w = 0xFFFD#16 then .memWrFffd (busData w)
    else if busAddr w = 0xFFFE#16 then .memWrFffe (busData w)
    else if busAddr w = 0xFFFF#16 then .memWrFfff (busData w)
    else .memWr (busAddr w) (busData w)
  else if busKind w = 2#2 then
    if portClass (busPort w) = 1#2 then
      if portOdd (busPort w) then .ioRdHcount (busPort w) else .ioRdVcount (busPort w)
    else if portClass (busPort w) = 2#2 then
      if portOdd (busPort w) then .ioRdStatus (busPort w) else .ioRdData (busPort w)
    else if portClass (busPort w) = 0#2 then .ioRdIgnLo (busPort w)
    else .ioRdIgnHi (busPort w)
  else
    if portClass (busPort w) = 1#2 then .ioWrCounter (busPort w) (busData w)
    else if portClass (busPort w) = 2#2 then
      if portOdd (busPort w) then .ioWrCtrl (busPort w) (busData w)
      else .ioWrData (busPort w) (busData w)
    else if portClass (busPort w) = 0#2 then .ioWrIgnLo (busPort w) (busData w)
    else .ioWrIgnHi (busPort w) (busData w)

/-- The four codes of R312. -/
def decodeCommand (cmd : Word16) : Instr :=
  if cmdCode cmd = 0#2 then .cmdVramRead (cmdAddr cmd)
  else if cmdCode cmd = 1#2 then .cmdVramWrite (cmdAddr cmd)
  else if cmdCode cmd = 2#2 then .cmdRegWrite (cmdAddr cmd)
  else .cmdCramWrite (cmdAddr cmd)

/-- The host operations of R315; an argument that is not the op's is rejected by name (log 14). -/
def decodeHost (op : BitVec 3) (arg : HostArg) : Except DecodeError Instr :=
  if op = 0#3 then
    match arg with
    | .units n => .ok (.tick n)
    | _ => .error .argumentMismatch
  else if op = 1#3 then
    if arg = .nothing then .ok .setSpriteOverflow else .error .argumentMismatch
  else if op = 2#3 then
    if arg = .nothing then .ok .setSpriteCollision else .error .argumentMismatch
  else if op = 3#3 then
    match arg with
    | .config c => .ok (.load c)
    | _ => .error .argumentMismatch
  else if op = 4#3 then
    if arg = .nothing then .ok .readFb else .error .argumentMismatch
  else if op = 5#3 then .ok .hostReserved5
  else .ok (.hostReserved67 (op.getLsbD 0))

/-- The decoder: total on packets. -/
def decode : Packet → Except DecodeError Instr
  | .bus w => .ok (decodeBus w)
  | .cmd w => .ok (decodeCommand w)
  | .host op arg => decodeHost op arg

/-! ## Encoding -/

/-- The packet of an instruction, from R300 (K, A, D), R311 (CODE, ADDR) and R315 (op, arg). The ignored
bits are written as zero: D of a read, A[15:8] of an I/O transaction (log 19). -/
def encode : Instr → Packet
  | .memRd a => .bus (busWord 0#2 a 0#8)
  | .memWrFffc v => .bus (busWord 1#2 0xFFFC#16 v)
  | .memWrFffd v => .bus (busWord 1#2 0xFFFD#16 v)
  | .memWrFffe v => .bus (busWord 1#2 0xFFFE#16 v)
  | .memWrFfff v => .bus (busWord 1#2 0xFFFF#16 v)
  | .memWr a v => .bus (busWord 1#2 a v)
  | .ioRdVcount p => .bus (busWord 2#2 (portAddr p) 0#8)
  | .ioRdHcount p => .bus (busWord 2#2 (portAddr p) 0#8)
  | .ioRdData p => .bus (busWord 2#2 (portAddr p) 0#8)
  | .ioRdStatus p => .bus (busWord 2#2 (portAddr p) 0#8)
  | .ioRdIgnLo p => .bus (busWord 2#2 (portAddr p) 0#8)
  | .ioRdIgnHi p => .bus (busWord 2#2 (portAddr p) 0#8)
  | .ioWrCounter p v => .bus (busWord 3#2 (portAddr p) v)
  | .ioWrData p v => .bus (busWord 3#2 (portAddr p) v)
  | .ioWrCtrl p v => .bus (busWord 3#2 (portAddr p) v)
  | .ioWrIgnLo p v => .bus (busWord 3#2 (portAddr p) v)
  | .ioWrIgnHi p v => .bus (busWord 3#2 (portAddr p) v)
  | .cmdVramRead a => .cmd (mkCommand 0#2 a)
  | .cmdVramWrite a => .cmd (mkCommand 1#2 a)
  | .cmdRegWrite a => .cmd (mkCommand 2#2 a)
  | .cmdCramWrite a => .cmd (mkCommand 3#2 a)
  | .tick n => .host 0#3 (.units n)
  | .setSpriteOverflow => .host 1#3 .nothing
  | .setSpriteCollision => .host 2#3 .nothing
  | .load cfg => .host 3#3 (.config cfg)
  | .readFb => .host 4#3 .nothing
  | .hostReserved5 => .host 5#3 .nothing
  | .hostReserved67 low => .host (if low then 7#3 else 6#3) .nothing

/-! ## The rows of the opcode table -/

/-- A row of spec/opcode_table.json: the width of its format, and the mask and match of its words. -/
structure TableRow where
  width : Nat
  mask : BusWord
  pattern : BusWord
  deriving DecidableEq, Repr

/-- The row of an instruction, copied from the table. -/
def Instr.tableRow : Instr → TableRow
  | .memRd _ => ⟨26, 0x3000000#26, 0x0000000#26⟩
  | .memWrFffc _ => ⟨26, 0x3FFFF00#26, 0x1FFFC00#26⟩
  | .memWrFffd _ => ⟨26, 0x3FFFF00#26, 0x1FFFD00#26⟩
  | .memWrFffe _ => ⟨26, 0x3FFFF00#26, 0x1FFFE00#26⟩
  | .memWrFfff _ => ⟨26, 0x3FFFF00#26, 0x1FFFF00#26⟩
  | .memWr _ _ => ⟨26, 0x3000000#26, 0x1000000#26⟩
  | .ioRdVcount _ => ⟨26, 0x300C100#26, 0x2004000#26⟩
  | .ioRdHcount _ => ⟨26, 0x300C100#26, 0x2004100#26⟩
  | .ioRdData _ => ⟨26, 0x300C100#26, 0x2008000#26⟩
  | .ioRdStatus _ => ⟨26, 0x300C100#26, 0x2008100#26⟩
  | .ioRdIgnLo _ => ⟨26, 0x300C000#26, 0x2000000#26⟩
  | .ioRdIgnHi _ => ⟨26, 0x300C000#26, 0x200C000#26⟩
  | .ioWrCounter _ _ => ⟨26, 0x300C000#26, 0x3004000#26⟩
  | .ioWrData _ _ => ⟨26, 0x300C100#26, 0x3008000#26⟩
  | .ioWrCtrl _ _ => ⟨26, 0x300C100#26, 0x3008100#26⟩
  | .ioWrIgnLo _ _ => ⟨26, 0x300C000#26, 0x3000000#26⟩
  | .ioWrIgnHi _ _ => ⟨26, 0x300C000#26, 0x300C000#26⟩
  | .cmdVramRead _ => ⟨16, 0x000C000#26, 0x0000000#26⟩
  | .cmdVramWrite _ => ⟨16, 0x000C000#26, 0x0004000#26⟩
  | .cmdRegWrite _ => ⟨16, 0x000C000#26, 0x0008000#26⟩
  | .cmdCramWrite _ => ⟨16, 0x000C000#26, 0x000C000#26⟩
  | .tick _ => ⟨3, 0x0000007#26, 0x0000000#26⟩
  | .setSpriteOverflow => ⟨3, 0x0000007#26, 0x0000001#26⟩
  | .setSpriteCollision => ⟨3, 0x0000007#26, 0x0000002#26⟩
  | .load _ => ⟨3, 0x0000007#26, 0x0000003#26⟩
  | .readFb => ⟨3, 0x0000007#26, 0x0000004#26⟩
  | .hostReserved5 => ⟨3, 0x0000007#26, 0x0000005#26⟩
  | .hostReserved67 _ => ⟨3, 0x0000006#26, 0x0000006#26⟩

/-- The seventeen bus rows of R301, in the order in which they are tried. -/
def busTable : List TableRow :=
  [⟨26, 0x3000000#26, 0x0000000#26⟩,
   ⟨26, 0x3FFFF00#26, 0x1FFFC00#26⟩,
   ⟨26, 0x3FFFF00#26, 0x1FFFD00#26⟩,
   ⟨26, 0x3FFFF00#26, 0x1FFFE00#26⟩,
   ⟨26, 0x3FFFF00#26, 0x1FFFF00#26⟩,
   ⟨26, 0x3000000#26, 0x1000000#26⟩,
   ⟨26, 0x300C100#26, 0x2004000#26⟩,
   ⟨26, 0x300C100#26, 0x2004100#26⟩,
   ⟨26, 0x300C100#26, 0x2008000#26⟩,
   ⟨26, 0x300C100#26, 0x2008100#26⟩,
   ⟨26, 0x300C000#26, 0x2000000#26⟩,
   ⟨26, 0x300C000#26, 0x200C000#26⟩,
   ⟨26, 0x300C000#26, 0x3004000#26⟩,
   ⟨26, 0x300C100#26, 0x3008000#26⟩,
   ⟨26, 0x300C100#26, 0x3008100#26⟩,
   ⟨26, 0x300C000#26, 0x3000000#26⟩,
   ⟨26, 0x300C000#26, 0x300C000#26⟩]

/-- A word matches a row. -/
def TableRow.matchesWord (r : TableRow) (w : BusWord) : Bool := w &&& r.mask == r.pattern

/-- The width of a packet's format. -/
def Packet.width : Packet → Nat
  | .bus _ => 26
  | .cmd _ => 16
  | .host _ _ => 3

/-- The bits of a packet as one number. -/
def Packet.word : Packet → BusWord
  | .bus w => w
  | .cmd w => w.setWidth 26
  | .host op _ => op.setWidth 26

/-! ## Words numbered as the opcode table numbers them -/

/-- The argument of zeros of a host operation: TICK 0, LOAD of the blank configuration (log 20). -/
def zeroArg (op : BitVec 3) : HostArg :=
  if op = 0#3 then .units 0
  else if op = 3#3 then .config Configuration.blank
  else .nothing

/-- The packet of a table word: `host3` rows have at most 8 bits, `cmd16` rows 16, `bus26` rows 26 in
whole bytes. A word with bits above its format's width is none. -/
def tablePacket (nbits w : Nat) : Option Packet :=
  if nbits ≤ 8 then
    if w < 8 then some (.host (BitVec.ofNat 3 w) (zeroArg (BitVec.ofNat 3 w))) else none
  else if nbits ≤ 16 then
    if w < 0x10000 then some (.cmd (BitVec.ofNat 16 w)) else none
  else
    if w < 0x4000000 then some (.bus (BitVec.ofNat 26 w)) else none

/-- The instruction the decoder reads from a word of the opcode table. -/
def decodeTableWord (nbits w : Nat) : Option Instr :=
  match tablePacket nbits w with
  | some p =>
    match decode p with
    | .ok i => some i
    | .error _ => none
  | none => none

/-! ## Pseudo-operations (R345, R346), with the canonical ports 0xBE and 0xBF -/

/-- `WR [a], v`. -/
def reqWrite (a : Word16) (v : Byte) : Request := .bus (busWord 1#2 a v)

/-- `RD [a]`. -/
def reqRead (a : Word16) : Request := .bus (busWord 0#2 a 0#8)

/-- `OUT (p), v`. -/
def reqOut (p v : Byte) : Request := .bus (busWord 3#2 (portAddr p) v)

/-- `IN (p)`. -/
def reqIn (p : Byte) : Request := .bus (busWord 2#2 (portAddr p) 0#8)

/-- `VDPCMD c, a`: the low byte, then {c, a[13:8]}. -/
def pseudoVdpCmd (c : BitVec 2) (a : BitVec 14) : List Request :=
  [reqOut 0xBF#8 (a.extractLsb' 0 8), reqOut 0xBF#8 (c ++ (a.extractLsb' 8 6 : BitVec 6))]

/-- `VRAMR a`. -/
def pseudoVramR (a : BitVec 14) : List Request := pseudoVdpCmd 0#2 a

/-- `VRAMW a`. -/
def pseudoVramW (a : BitVec 14) : List Request := pseudoVdpCmd 1#2 a

/-- `CRAMW a`. -/
def pseudoCramW (a : BitVec 14) : List Request := pseudoVdpCmd 3#2 a

/-- `VDPREG n, v`: v, then 0x80 | n. -/
def pseudoVdpReg (n : BitVec 4) (v : Byte) : List Request :=
  [reqOut 0xBF#8 v, reqOut 0xBF#8 (0x80#8 ||| n.setWidth 8)]

/-- `BANK1 p`. -/
def pseudoBank1 (p : Byte) : List Request := [reqWrite 0xFFFE#16 p]

/-- `BANK2 p`. -/
def pseudoBank2 (p : Byte) : List Request := [reqWrite 0xFFFF#16 p]

/-- `SRAMON g`: 0x08 | g << 2. -/
def pseudoSramOn (g : Bool) : List Request :=
  [reqWrite 0xFFFC#16 (if g then 0x0C#8 else 0x08#8)]

/-- `SRAMOFF`. -/
def pseudoSramOff : List Request := [reqWrite 0xFFFC#16 0x00#8]

end Sys2Proof
end

