-- ==== Sys2Proof/Machine/Fetch.lean ====
section
/-! DEFINITION. Where the next instruction comes from: the first waiting operation, with the control-port
latch as its lead byte (30_encoding R310; log 1, log 10), and the placing of a table word there. -/

namespace Sys2Proof.Machine

/-- A write to the VDP control port: row 15 of R301. -/
def isControlWrite (w : BusWord) : Bool :=
  busKind w == 3#2 && portClass (busPort w) == 2#2 && portOdd (busPort w)

/-- The packet a request makes (R310): a control write while `pending` = 1 completes the command word
{second, first}; whether it does is decided only by `pending`. -/
def assemble (pending : Bool) (latchLo : Byte) : Request → Packet
  | .bus w =>
    if pending && isControlWrite w then .cmd (commandWord (busData w) latchLo) else .bus w
  | .host op arg => .host op arg

/-- A host operation is accepted while `running` = 0: LOAD, and the numbers refused in any case. -/
def acceptedIdle (op : BitVec 3) : Bool := op == 3#3 || op == 5#3 || op == 6#3 || op == 7#3

/-- The block running with no recorded fault: what a valid LOAD leaves of these two (R900; log 2). -/
def State.setRunning (s : State) : State := { s with running := true, fault := none }

/-- A packet placed as the operation that the next step takes (log 2). -/
def State.place (s : State) : Packet → State
  | .bus w =>
    { s.setRunning with
      input := .bus w :: s.input
      pending := s.pending && !isControlWrite w }
  | .cmd w =>
    { s.setRunning with
      input := reqOut 0xBF#8 (w.extractLsb' 8 8) :: s.input
      pending := true
      latchLo := w.extractLsb' 0 8 }
  | .host op arg =>
    if acceptedIdle op then { s with input := .host op arg :: s.input }
    else { s.setRunning with input := .host op arg :: s.input }

/-- A table word placed as the next operation; a word wider than its format places nothing. -/
def State.placeWord (s : State) (nbits w : Nat) : State :=
  match tablePacket nbits w with
  | some p => s.place p
  | none => s

end Sys2Proof.Machine
end

