-- ==== Sys2Proof/Machine/Step.lean ====
section
/-! DEFINITION. One step: the first waiting operation is taken and its instruction run to completion
(20_memory R230). With none waiting the block does nothing: it has no agent of its own (R6; log 1). -/

namespace Sys2Proof.Machine

def step (s : State) : Host.Outcome State Fault Refusal :=
  match s.input with
  | [] => .next s
  | r :: rest =>
    match decode (assemble s.pending s.latchLo r) with
    | .ok i => exec i { s with input := rest }
    | .error .argumentMismatch => .refused .argumentMismatch

/-- The state whose next step runs the instruction of a table word (log 2). -/
def State.withFetchWord (s : State) (nbits w : Nat) : State := s.placeWord nbits w

end Sys2Proof.Machine
end

