-- ==== Sys2Proof/Safety.lean ====
section
/-! DEFINITION. What the block promises of every state a run reaches, in the terms the statements use:
the ranges of its registers and counters, the form of its memories, a loadable configuration, and the
mapper's translation view (R431). -/

namespace Sys2Proof

open Machine

/-- The size of the framebuffer in bytes: 240 rows of 256 pixels of 3 bytes (R111). -/
def fbSize : Nat := 240 * 256 * 3

/-- Every memory is in canonical form and inside its size (R100, R101, R111, R112, R114). -/
structure MemoriesCanonical (s : State) : Prop where
  vram : s.vram.wf ∧ s.vram.within 16384
  cram : s.cram.wf ∧ s.cram.within 32
  fb : s.fb.wf ∧ s.fb.within fbSize
  mem : s.mem.wf ∧ s.mem.within 65536
  sram : s.sram.wf ∧ s.sram.within (2 * s.config.sramSize)

/-- The values the address register can hold (R104, R533). -/
def AddressLegal (s : State) : Prop := s.addr ≤ 0x4000#16 ∨ s.addr = 0xC000#16

/-- Status bits 4:0 are 0 (R108). -/
def StatusLowZero (s : State) : Prop := s.status &&& 0x1F#8 = 0#8

/-- 0 ≤ h < 684 and 0 ≤ line < LINES_PER_FRAME between operations (R109). -/
def RasterInRange (s : State) : Prop := s.h < 684 ∧ s.line < s.config.linesPerFrame

/-- A recorded fault means that the block is not running (R800). -/
def FaultStopsRun (s : State) : Prop := s.fault ≠ none → s.running = false

/-- The eight bytes of "TMR SEGA" stand at offset `o` of the image, all inside it (R335, R901). -/
def HoldsSignature (rom : List Byte) (o : Nat) : Prop :=
  rom[o]? = some 0x54#8 ∧ rom[o + 1]? = some 0x4D#8 ∧ rom[o + 2]? = some 0x52#8 ∧
  rom[o + 3]? = some 0x20#8 ∧ rom[o + 4]? = some 0x53#8 ∧ rom[o + 5]? = some 0x45#8 ∧
  rom[o + 6]? = some 0x47#8 ∧ rom[o + 7]? = some 0x41#8

/-- The signature is found at one of the three header offsets: the ROM is valid (R335, R403). -/
def HasSignature (rom : List Byte) : Prop :=
  HoldsSignature rom 0x7FF0 ∨ HoldsSignature rom 0x3FF0 ∨ HoldsSignature rom 0x1FF0

/-- The well-formedness of a configuration (R401). -/
def ConfigWellFormed (c : Configuration) : Prop :=
  match c.mapperKind with
  | .romOnly => c.rom.length ≤ 0xC000
  | .segaBanked => (∃ k, c.bankCount = 2 ^ k) ∧ c.rom.length = c.bankCount * 0x4000

/-- What a configuration must be for LOAD to start the run (R901). -/
def LoadAccepts (c : Configuration) : Prop := HasSignature c.rom ∧ ConfigWellFormed c

/-- While the block runs its configuration is well-formed (R401). -/
def ConfigLoadable (s : State) : Prop := s.running = true → ConfigWellFormed s.config

/-- The byte of the cartridge image at an index; 0x00 past its end, where no rule reads it. -/
def romByte (c : Configuration) (i : Nat) : Byte := (c.rom[i]?).getD 0#8

/-- The RomOnly part of R431. -/
structure RomOnlyView (s : State) : Prop where
  image : ∀ a, a < s.config.rom.length → s.mem.read a = romByte s.config a
  past : ∀ a, s.config.rom.length ≤ a → a < 0xC000 → s.mem.read a = 0#8
  mirror : ∀ a, 0xC000 ≤ a → a ≤ 0xDFFF → s.mem.read a = s.mem.read (a + 0x2000)

/-- The SegaBanked part of R431. -/
structure SegaView (s : State) : Prop where
  slot0 : ∀ a, a ≤ 0x3FFF → s.mem.read a = romByte s.config a
  slot1 : ∀ a, 0x4000 ≤ a → a ≤ 0x7FFF →
    s.mem.read a = romByte s.config (pageOf s.config s.slot1Page * 0x4000 + (a - 0x4000))
  slot2Rom : ramEnable s.ramCtl = false → ∀ a, 0x8000 ≤ a → a ≤ 0xBFFF →
    s.mem.read a = romByte s.config (pageOf s.config s.slot2Page * 0x4000 + (a - 0x8000))
  slot2Ram : ramEnable s.ramCtl = true → ∀ a, 0x8000 ≤ a → a < 0x8000 + s.config.sramSize →
    s.mem.read a = s.sram.read (ramPage s.ramCtl * s.config.sramSize + (a - 0x8000))
  mirror : ∀ a, 0xC000 ≤ a → a ≤ 0xDFFB → s.mem.read a = s.mem.read (a + 0x2000)

/-- The address-translation view of the mapper (R431). -/
def TranslationView (s : State) : Prop :=
  match s.config.mapperKind with
  | .romOnly => RomOnlyView s
  | .segaBanked => SegaView s

/-- A bus transaction, as opposed to a host operation (R300, R315): the command words are completed by
a control-port write (R500). -/
def Instr.isBus : Instr → Bool
  | .tick _ => false
  | .setSpriteOverflow => false
  | .setSpriteCollision => false
  | .load _ => false
  | .readFb => false
  | .hostReserved5 => false
  | .hostReserved67 _ => false
  | _ => true

/-- The operations R803 refuses while `running` = 0: every one but LOAD and the reserved host numbers,
which R806 refuses under their own reason. -/
def Instr.needsRunning : Instr → Bool
  | .load _ => false
  | .hostReserved5 => false
  | .hostReserved67 _ => false
  | _ => true

/-- The bus master's write of `v` at `a`: the row of R301 that takes that address. -/
def busWrite (a : Word16) (v : Byte) : Instr :=
  if a = 0xFFFC#16 then .memWrFffc v
  else if a = 0xFFFD#16 then .memWrFffd v
  else if a = 0xFFFE#16 then .memWrFffe v
  else if a = 0xFFFF#16 then .memWrFfff v
  else .memWr a v

/-- Instructions run one after another, stopping at the first fault or refusal. -/
def execAll : List Instr → State → Outcome
  | [], s => .next s
  | i :: rest, s =>
    match exec i s with
    | .next t => execAll rest t
    | .fault f => .fault f
    | .refused r => .refused r

/-- The components of a background pixel, worked out on plain numbers as R611 to R618 write them:
quotients and remainders for bit fields, an integer remainder for `(x - hs) mod 256`. -/
def pixelByRules (s : State) (line x : Nat) : Nat × Nat × Nat :=
  let reg0 := (s.reg 0).toNat
  let reg2 := (s.reg 2).toNat
  let tall : Bool := s.lineMode != .lines192
  let hs := if reg0 / 64 % 2 = 1 ∧ line < 16 then 0 else (s.reg 8).toNat
  let vs := if reg0 / 128 % 2 = 1 ∧ 192 ≤ x then 0 else (s.reg 9).toNat
  let nt := if tall then reg2 / 4 % 4 * 0x1000 + 0x0700 else reg2 / 2 % 8 * 0x0800
  let bx := (((x : Int) - (hs : Int)) % 256).toNat
  let bY := (line + vs) % (if tall then 256 else 224)
  let e := nt + (bY / 8 * 32 + bx / 8) * 2
  let desc := (s.vram.read (e + 1)).toNat * 256 + (s.vram.read e).toNat
  let py := if desc / 1024 % 2 = 1 then 7 - bY % 8 else bY % 8
  let px := if desc / 512 % 2 = 1 then 7 - bx % 8 else bx % 8
  let pa := desc % 512 * 32 + py * 4
  let plane := fun k => (s.vram.read (pa + k)).toNat / 2 ^ (7 - px) % 2
  let ci := plane 0 + 2 * plane 1 + 4 * plane 2 + 8 * plane 3 + 16 * (desc / 2048 % 2)
  let c := (s.cram.read ci).toNat
  (c % 4 * 85, c / 4 % 4 * 85, c / 16 % 4 * 85)

/-- The k-th byte of a pixel in the order R, G, B (R207). -/
def Rgb.component (p : Rgb) (k : Nat) : Byte :=
  if k = 0 then p.r else if k = 1 then p.g else p.b

end Sys2Proof
end

