-- ==== Sys2Proof/Certificates/Slice0/Obligations.lean ====
section
/-! DEFINITION. The statements for the provers. Each is one Prop under Obligations, its docstring says
which rule of the spec it formalises. -/

open Sys2Proof Sys2Proof.Machine

/-! ## Decoding and encoding -/

/-- R300, R301, R310 to R312, R315: decoding the encoding of a well-formed instruction gives it back, with
every operand at every value its row admits. -/
def Obligations.DecodeOfEncodeIsTheInstruction : Prop :=
  ∀ i : Instr, i.WellFormed → decode (encode i) = .ok i

/-- R301: whatever is decoded lies in its row. -/
def Obligations.DecodedInstructionsAreWellFormed : Prop :=
  ∀ (p : Packet) (i : Instr), decode p = .ok i → i.WellFormed

/-- R301: the row of the decoded instruction is the first of the table's bus rows that the word matches,
and every word matches one. -/
def Obligations.BusWordsDecodeByFirstMatchingRow : Prop :=
  ∀ w : BusWord,
    busTable.find? (fun r => r.matchesWord w) = some (decodeBus w).tableRow

/-- R205, R311: the fields of a command word built from two control bytes. -/
def Obligations.CommandWordFieldsComeFromTheTwoBytes : Prop :=
  ∀ second first : Byte,
    (cmdCode (commandWord second first)).toNat = second.toNat / 64 ∧
    (cmdAddr (commandWord second first)).toNat = second.toNat % 64 * 256 + first.toNat ∧
    (regNumber (cmdAddr (commandWord second first))).toNat = second.toNat % 16 ∧
    regValue (cmdAddr (commandWord second first)) = first

/-- R301 and R312 on words of 95_test_vectors section 2, and a host record of R315. -/
def Obligations.SampleWordsDecode : Prop :=
  decodeBus 0x0412300#26 = .memRd 0x4123#16 ∧
  decodeBus 0x1FFFC08#26 = .memWrFffc 0x08#8 ∧
  decodeBus 0x1DFFC08#26 = .memWr 0xDFFC#16 0x08#8 ∧
  decodeBus 0x2007F00#26 = .ioRdHcount 0x7F#8 ∧
  decodeBus 0x200DC00#26 = .ioRdIgnHi 0xDC#8 ∧
  decodeBus 0x312BF40#26 = .ioWrCtrl 0xBF#8 0x40#8 ∧
  decodeCommand 0x8140#16 = .cmdRegWrite 0x0140#14 ∧
  decode (.host 0#3 (.units 684)) = .ok (.tick 684)

/-- R701: the upper address byte of an I/O transaction takes no part in the decode. -/
def Obligations.UpperAddressByteIgnoredByPorts : Prop :=
  ∀ (k : BitVec 2) (hi hi' p d : Byte), k = 2#2 ∨ k = 3#2 →
    decodeBus (busWord k (hi ++ p) d) = decodeBus (busWord k (hi' ++ p) d)

/-- R806, R315: host operations 5, 6 and 7 decode whatever their argument, and are refused in every
state, running or not, with reason UNKNOWN_HOST_OP. -/
def Obligations.ReservedHostOpsAreRefused : Prop :=
  ∀ (s : State) (arg : HostArg) (op : BitVec 3), 5#3 ≤ op →
    ∃ i, decode (.host op arg) = .ok i ∧ exec i s = .refused .unknownHostOp

/-! ## The step -/

/-- R230: the first waiting operation is taken off the queue and the instruction it decodes to is run
on the rest of the state; with nothing waiting nothing happens (the model's choice, log 1). -/
def Obligations.StepRunsTheDecodedInstruction : Prop :=
  (∀ (s : State) (r : Request) (rest : List Request) (i : Instr),
    s.input = r :: rest → decode (assemble s.pending s.latchLo r) = .ok i →
      step s = exec i { s with input := rest }) ∧
  ∀ s : State, s.input = [] → step s = .next s

/-- R310: whether a control-port write is a first or a second byte is decided only by `pending`, never by
the byte: while `pending` = 1 it completes the command word {second, first}, while `pending` = 0 it is
IO_WR_CTRL; and no other transaction is taken for a byte of a command. That the second byte decodes to the CMD row of
the word, where R301 and R500 make both bytes IO_WR_CTRL, is the model's reading (log 10). -/
def Obligations.PendingAloneDecidesTheSecondByte : Prop :=
  ∀ (hi p v lo : Byte) (k : BitVec 2) (a : Word16) (d : Byte) (pend : Bool),
    (portClass p = 2#2 → portOdd p = true →
      decode (assemble true lo (.bus (busWord 3#2 (hi ++ p) v))) = .ok (decodeCommand (v ++ lo)) ∧
      decode (assemble false lo (.bus (busWord 3#2 (hi ++ p) v))) = .ok (.ioWrCtrl p v)) ∧
    (k ≠ 3#2 ∨ portClass (a.setWidth 8) ≠ 2#2 ∨ portOdd (a.setWidth 8) = false →
      assemble pend lo (.bus (busWord k a d)) = .bus (busWord k a d))

/-! ## Running, completion, faults -/

/-- R803: while `running` = 0 every operation but LOAD (and the reserved numbers, refused under their own
reason) is refused NOT_RUNNING. R901: LOAD is accepted in every state; that a LOAD which fails a check answers a next
state too, with the fault recorded, is the model's reading (log 8). -/
def Obligations.IdleBlockAcceptsOnlyLoad : Prop :=
  (∀ (i : Instr) (s : State), i.needsRunning = true → s.running = false →
    exec i s = .refused .notRunning) ∧
  ∀ (c : Configuration) (s : State), ∃ t, exec (.load c) s = .next t

/-- R805: once `running` = 1 every bus transaction has a defined effect: it answers a next state, for each
of the seventeen transactions and four command words. ConfigLoadable holds after every valid LOAD. -/
def Obligations.RunningBusTransactionsComplete : Prop :=
  ∀ (i : Instr) (s : State), s.running = true → ConfigLoadable s → i.isBus = true →
    ∃ t, exec i s = .next t

/-- R801: from a state with a loadable configuration no step stops on a bank copy outside the image, whatever is
waiting. That copy is the one fault a step of the model answers (log 11); the faults of R800, which a waiting LOAD can
raise, are recorded in a next state (log 8) and are not spoken of here. -/
def Obligations.NoStepFaultsFromALoadableConfiguration : Prop :=
  ∀ (s : State), ConfigLoadable s → ∀ f, step s ≠ .fault f

/-! ## CPU memory and mapper -/

/-- R410: MEM_RD returns `MEM[a]` and has no side effect. -/
def Obligations.MemReadReturnsTheByte : Prop :=
  ∀ (a : Word16) (s : State), s.running = true →
    exec (.memRd a) s = .next { s with reply := .byte (s.mem.read a.toNat) }

/-- R415: a dropped write has no effect at all. -/
def Obligations.DroppedWritesChangeNothing : Prop :=
  ∀ (a : Word16) (v : Byte) (s : State), s.running = true →
    (s.config.mapperKind = .romOnly → a.toNat < 0xC000 → exec (.memWr a v) s = .next s) ∧
    (s.config.mapperKind = .segaBanked → a.toNat < 0x8000 → exec (.memWr a v) s = .next s) ∧
    (s.config.mapperKind = .segaBanked → 0x8000 ≤ a.toNat → a.toNat ≤ 0xBFFF →
      ramEnable s.ramCtl = false → exec (.memWr a v) s = .next s)

/-- R413: under RomOnly a write at 0xC000 to 0xFFFF, the control-byte addresses among them, stores the byte
there and at its mirror, and changes nothing else. -/
def Obligations.RomOnlyWritesReachBothRamWindows : Prop :=
  ∀ (a : Word16) (v : Byte) (s : State), s.running = true → s.config.mapperKind = .romOnly →
    0xC000 ≤ a.toNat →
    ∃ t, exec (busWrite a v) s = .next t ∧ { t with mem := s.mem } = s ∧
      ∀ b, t.mem.read b =
        if b = a.toNat ∨ b = (if a.toNat < 0xE000 then a.toNat + 0x2000 else a.toNat - 0x2000)
        then v else s.mem.read b

/-- R414: under SegaBanked a write at 0xC000 to 0xFFFB stores the byte and, but for 0xDFFC to 0xDFFF, its
mirror, and changes nothing else. -/
def Obligations.SegaRamWritesMirrorAllButFourBytes : Prop :=
  ∀ (a : Word16) (v : Byte) (s : State), s.running = true → s.config.mapperKind = .segaBanked →
    0xC000 ≤ a.toNat → a.toNat ≤ 0xFFFB →
    ∃ t, exec (.memWr a v) s = .next t ∧ { t with mem := s.mem } = s ∧
      ∀ b, t.mem.read b =
        if b = a.toNat ∨ (a.toNat ≤ 0xDFFB ∧ b = a.toNat + 0x2000) ∨
          (0xE000 ≤ a.toNat ∧ b = a.toNat - 0x2000)
        then v else s.mem.read b

/-- R412: a write into slot 2 while it is RAM-backed stores the byte in MEM and, inside the page, in the
mapped page of SRAM, and changes nothing else. -/
def Obligations.SlotTwoRamWritesGoThroughToSram : Prop :=
  ∀ (a : Word16) (v : Byte) (s : State), s.running = true → s.config.mapperKind = .segaBanked →
    0x8000 ≤ a.toNat → a.toNat ≤ 0xBFFF → ramEnable s.ramCtl = true →
    ∃ t, exec (.memWr a v) s = .next t ∧ { t with mem := s.mem, sram := s.sram } = s ∧
      (∀ b, t.mem.read b = if b = a.toNat then v else s.mem.read b) ∧
      ∀ b, t.sram.read b =
        if a.toNat - 0x8000 < s.config.sramSize ∧
          b = ramPage s.ramCtl * s.config.sramSize + (a.toNat - 0x8000)
        then v else s.sram.read b

/-- R422, R423: a write to 0xFFFC stores the byte in MEM and in ram_ctl and maps slot 2 again: S bytes of the
cartridge-RAM page that bit 2 names while bit 3 is 1, else the ROM page of slot2_page; nothing else changes. -/
def Obligations.RamControlWriteRemapsSlotTwo : Prop :=
  ∀ (v : Byte) (s : State), s.running = true → s.config.mapperKind = .segaBanked →
    ConfigLoadable s →
    ∃ t, exec (.memWrFffc v) s = .next t ∧ { t with mem := s.mem, ramCtl := s.ramCtl } = s ∧
      t.ramCtl = v ∧
      ∀ b, t.mem.read b =
        if b = 0xFFFC then v
        else if v.getLsbD 3 = true ∧ 0x8000 ≤ b ∧ b < 0x8000 + s.config.sramSize then
          s.sram.read ((if v.getLsbD 2 then s.config.sramSize else 0) + (b - 0x8000))
        else if v.getLsbD 3 = false ∧ 0x8000 ≤ b ∧ b < 0xC000 then
          romByte s.config (s.slot2Page.toNat % s.config.bankCount * 0x4000 + (b - 0x8000))
        else s.mem.read b

/-- R424, R430: a write to 0xFFFE stores the byte in MEM and in slot1_page and copies ROM page v mod BC into
0x4000 to 0x7FFF; nothing else changes. -/
def Obligations.SlotOneSelectCopiesThePage : Prop :=
  ∀ (v : Byte) (s : State), s.running = true → s.config.mapperKind = .segaBanked →
    ConfigLoadable s →
    ∃ t, exec (.memWrFffe v) s = .next t ∧ { t with mem := s.mem, slot1Page := s.slot1Page } = s ∧
      t.slot1Page = v ∧
      ∀ b, t.mem.read b =
        if b = 0xFFFE then v
        else if 0x4000 ≤ b ∧ b < 0x8000 then
          romByte s.config (v.toNat % s.config.bankCount * 0x4000 + (b - 0x4000))
        else s.mem.read b

/-- R425: a write to 0xFFFF stores the byte in MEM and in slot2_page, and copies ROM page v mod BC into 0x8000
to 0xBFFF only while ram_ctl[3] = 0; nothing else changes. -/
def Obligations.SlotTwoSelectCopiesOnlyWhileRomBacked : Prop :=
  ∀ (v : Byte) (s : State), s.running = true → s.config.mapperKind = .segaBanked →
    ConfigLoadable s →
    ∃ t, exec (.memWrFfff v) s = .next t ∧ { t with mem := s.mem, slot2Page := s.slot2Page } = s ∧
      t.slot2Page = v ∧
      ∀ b, t.mem.read b =
        if b = 0xFFFF then v
        else if s.ramCtl.getLsbD 3 = false ∧ 0x8000 ≤ b ∧ b < 0xC000 then
          romByte s.config (v.toNat % s.config.bankCount * 0x4000 + (b - 0x8000))
        else s.mem.read b

/-- R426: under SegaBanked a write to 0xFFFD is stored in MEM and has no bank effect. -/
def Obligations.SlotZeroControlByteOnlyStored : Prop :=
  ∀ (v : Byte) (s : State), s.running = true → s.config.mapperKind = .segaBanked →
    ∃ t, exec (.memWrFffd v) s = .next t ∧ { t with mem := s.mem } = s ∧
      ∀ b, t.mem.read b = if b = 0xFFFD then v else s.mem.read b

/-- R424's quoted property of §8: after page P is written to 0xFFFE, a read at any address of slot 1 returns the
image's byte at (P mod bank_count) * 0x4000 + offset. -/
def Obligations.SlotOneReadsTheSelectedPage : Prop :=
  ∀ (p : Byte) (a : Word16) (s : State), s.running = true → s.config.mapperKind = .segaBanked →
    ConfigLoadable s → 0x4000 ≤ a.toNat → a.toNat < 0x8000 →
    ∃ t, execAll [.memWrFffe p, .memRd a] s = .next t ∧
      t.reply =
        .byte (romByte s.config (p.toNat % s.config.bankCount * 0x4000 + (a.toNat - 0x4000)))

/-- R412, R423: a byte written into a mapped cartridge-RAM page is read back after slot 2 has been ROM, and
after the other RAM page has been mapped (M10 to M12 of 95_test_vectors). -/
def Obligations.CartridgeRamSurvivesPageSwitches : Prop :=
  ∀ (c other : Byte) (a : Word16) (v : Byte) (s : State), s.running = true →
    s.config.mapperKind = .segaBanked → ConfigLoadable s → ramEnable c = true →
    0x8000 ≤ a.toNat → a.toNat < 0x8000 + s.config.sramSize →
    ∃ t, execAll [.memWrFffc c, .memWr a v, .memWrFffc other, .memWrFffc c, .memRd a] s = .next t ∧
      t.reply = .byte v

/-! ## VDP port protocol -/

/-- R500: the first control byte changes only latch_lo and `pending`. -/
def Obligations.FirstControlByteIsLatched : Prop :=
  ∀ (p v : Byte) (s : State), s.running = true → s.pending = false →
    exec (.ioWrCtrl p v) s = .next { s with latchLo := v, pending := true }

/-- R500, R510: the second control byte clears `pending` and runs the command word {v, latch_lo}: the meaning of
IO_WR_CTRL and that of the decoded command agree, and it completes with `addr` and `code` loaded; a command
other than a VRAM read leaves `addr` at the loaded bits. That a command word has a meaning of its own, which clears
`pending` first, is the model's reading (log 10). -/
def Obligations.SecondControlByteRunsTheCommand : Prop :=
  ∀ (p v : Byte) (s : State), s.running = true → s.pending = true →
    exec (.ioWrCtrl p v) s = exec (decodeCommand (v ++ s.latchLo)) s ∧
    ∃ t, exec (.ioWrCtrl p v) s = .next t ∧ t.pending = false ∧ t.code.toNat = v.toNat / 64 ∧
      (64 ≤ v.toNat → t.addr.toNat = v.toNat % 64 * 256 + s.latchLo.toNat)

/-- R510, R511: CMD_VRAM_READ loads `addr` and `code`, fills the read buffer from VRAM at the address loaded, and
increments the address register. R500's clearing of `pending` belongs to the command's meaning (log 10). -/
def Obligations.VramReadCommandPrimesTheBuffer : Prop :=
  ∀ (a : BitVec 14) (s : State), s.running = true →
    exec (.cmdVramRead a) s =
      .next { s with
        pending := false
        code := 0#2
        rbuf := s.vram.read a.toNat
        addr := if a.toNat % 1024 = 0 then 0xC000#16 else BitVec.ofNat 16 (a.toNat + 1) }

/-- R510, R512: CMD_REG_WRITE stores the eight low bits in the register that bits 11:8 name, and nothing in another
register; it loads `addr` and `code` like every command. R500's clearing of `pending` belongs to the command's
meaning (log 10). -/
def Obligations.RegWriteCommandWritesOneRegister : Prop :=
  ∀ (a : BitVec 14) (s : State), s.running = true →
    ∃ t, exec (.cmdRegWrite a) s = .next t ∧
      { t with
        regs := s.regs, pending := s.pending, addr := s.addr, code := s.code } = s ∧
      t.pending = false ∧ t.addr.toNat = a.toNat ∧ t.code = 2#2 ∧
      ∀ n : Fin 16,
        t.reg n = if n.val = a.toNat / 256 % 16 then BitVec.ofNat 8 (a.toNat % 256) else s.reg n

/-- R500, R510, R513, R514: CMD_VRAM_WRITE and CMD_CRAM_WRITE load `addr` and `code`, clear `pending` and do nothing
more. R513 and R514 name `addr` and `code` only; the clearing of `pending` is R500's step before them, which the model
puts into the command's meaning (log 10). -/
def Obligations.WriteTargetCommandsOnlyLoadAddressAndCode : Prop :=
  ∀ (a : BitVec 14) (s : State), s.running = true →
    exec (.cmdVramWrite a) s =
      .next { s with pending := false, code := 1#2, addr := BitVec.ofNat 16 a.toNat } ∧
    exec (.cmdCramWrite a) s =
      .next { s with pending := false, code := 3#2, addr := BitVec.ofNat 16 a.toNat }

/-- R520, R521: IO_WR_DATA stores the byte in CRAM at `addr` mod 32 in code 3, in VRAM at `addr` mod 16384 in every
other code; it sets the read buffer to the byte, increments `addr` and clears `pending`; nothing else changes. -/
def Obligations.DataWriteStoresByCode : Prop :=
  ∀ (p v : Byte) (s : State), s.running = true →
    ∃ t, exec (.ioWrData p v) s = .next t ∧
      { t with
        vram := s.vram, cram := s.cram, pending := s.pending, rbuf := s.rbuf, addr := s.addr } = s ∧
      t.pending = false ∧ t.rbuf = v ∧ t.addr = inc s.addr ∧
      (∀ b, t.vram.read b =
        if s.code ≠ 3#2 ∧ b = s.addr.toNat % 16384 then v else s.vram.read b) ∧
      ∀ b, t.cram.read b = if s.code = 3#2 ∧ b = s.addr.toNat % 32 then v else s.cram.read b

/-- R522: IO_RD_DATA returns the buffered byte, refills the buffer from VRAM whatever `code` holds, increments `addr`
and clears `pending`. -/
def Obligations.DataReadReturnsTheBufferedByte : Prop :=
  ∀ (p : Byte) (s : State), s.running = true →
    exec (.ioRdData p) s =
      .next { s with
        pending := false
        rbuf := s.vram.read (s.addr.toNat % 16384)
        addr := inc s.addr
        reply := .byte s.rbuf }

/-- R530: Inc sets 0xC000 exactly when bits 9:0 of the address before the increment are 0, else adds one. -/
def Obligations.AutoIncrementQuirk : Prop :=
  ∀ a : Word16,
    (inc a).toNat = if a.toNat % 1024 = 0 then 0xC000 else (a.toNat + 1) % 0x10000

/-- R104, R533: every step keeps the address register in 0x0000 to 0x4000 or at 0xC000. -/
def Obligations.AddressRegisterStaysLegal : Prop :=
  ∀ s t : State, AddressLegal s → step s = .next t → AddressLegal t

/-- R533: once `addr` is 0xC000 it stays there until the next command word (or LOAD, which resets it). -/
def Obligations.WrappedAddressStaysUntilACommand : Prop :=
  ∀ (i : Instr) (s t : State), s.addr = 0xC000#16 → exec i s = .next t →
    (∀ c, i ≠ .load c) → (∀ p v, i = .ioWrCtrl p v → s.pending = false) →
    (∀ a, i ≠ .cmdVramRead a ∧ i ≠ .cmdVramWrite a ∧ i ≠ .cmdRegWrite a ∧ i ≠ .cmdCramWrite a) →
    t.addr = 0xC000#16

/-- R540: IO_RD_STATUS returns the status register, clears bits 7, 6 and 5 and `pending`; a second read at once
returns 0x00 where bits 4:0 are 0. -/
def Obligations.StatusReadReturnsAndClears : Prop :=
  ∀ (p q : Byte) (s : State), s.running = true →
    exec (.ioRdStatus p) s =
      .next { s with
        status := BitVec.ofNat 8 (s.status.toNat % 32), pending := false, reply := .byte s.status } ∧
    (StatusLowZero s →
      ∃ t, execAll [.ioRdStatus p, .ioRdStatus q] s = .next t ∧ t.reply = .byte 0#8 ∧
        t.status = 0#8)

/-- R541, R542: the hooks set status bit 6 and status bit 5, and nothing else. -/
def Obligations.SpriteHooksSetOneStatusBit : Prop :=
  ∀ s : State, s.running = true →
    exec .setSpriteOverflow s = .next { s with status := s.status ||| 0x40#8 } ∧
    exec .setSpriteCollision s = .next { s with status := s.status ||| 0x20#8 }

/-- R550, R551: the counter reads return VCOUNT_MAP(REGION, LM, line) and HCOUNT_FN(h), without side effect; where
the configured table lists a value it is that value. -/
def Obligations.CounterReadsReturnTheMappedCounters : Prop :=
  ∀ (p : Byte) (s : State), s.running = true →
    exec (.ioRdVcount p) s =
      .next { s with reply := .byte (vcountMap s.config s.lineMode s.line) } ∧
    exec (.ioRdHcount p) s = .next { s with reply := .byte (hcountFn s.config s.h) } ∧
    (∀ v, (vcountTable s.config.vcount s.config.region s.lineMode)[s.line]? = some v →
      vcountMap s.config s.lineMode s.line = v) ∧
    ∀ v, s.config.hcount[s.h]? = some v → hcountFn s.config s.h = v

/-- R702, R703, R704: a read of an ignored port returns a free draw, and a write to an ignored port or a counter
port is dropped; neither changes any state of the spec's (the count of draws is the model's own, log 4). -/
def Obligations.IgnoredPortsAndCounterWritesChangeNothing : Prop :=
  ∀ (p v : Byte) (s : State), s.running = true →
    exec (.ioRdIgnLo p) s =
      .next { s with reply := .byte (Config.drawnByte s.draws), draws := s.draws + 1 } ∧
    exec (.ioRdIgnHi p) s =
      .next { s with reply := .byte (Config.drawnByte s.draws), draws := s.draws + 1 } ∧
    exec (.ioWrIgnLo p v) s = .next s ∧ exec (.ioWrIgnHi p v) s = .next s ∧
    exec (.ioWrCounter p v) s = .next s

/-- R501: the latch is a two-state machine over `pending`. A control write in state 0 goes to 1 and stores latch_lo,
in state 1 it goes to 0 and runs the command; a status read, data read and data write go to 0; every other
operation leaves `pending` and latch_lo (LOAD resets them). That the command word the second byte completes has a
meaning of its own, which clears `pending` as R500 does, is the model's reading (log 10). -/
def Obligations.ControlLatchIsATwoStateMachine : Prop :=
  ∀ (s t : State) (i : Instr), exec i s = .next t →
    (∀ p v, i = .ioWrCtrl p v →
      (s.pending = false → t.pending = true ∧ t.latchLo = v) ∧
      (s.pending = true → t.pending = false ∧ t.latchLo = s.latchLo ∧
        exec (decodeCommand (v ++ s.latchLo)) s = .next t)) ∧
    (∀ p v, i = .ioRdStatus p ∨ i = .ioRdData p ∨ i = .ioWrData p v →
      t.pending = false ∧ t.latchLo = s.latchLo) ∧
    (∀ a p v n, i = .ioRdVcount p ∨ i = .ioRdHcount p ∨ i = .ioRdIgnLo p ∨ i = .ioRdIgnHi p ∨
      i = .ioWrCounter p v ∨ i = .ioWrIgnLo p v ∨ i = .ioWrIgnHi p v ∨ i = .memRd a ∨
      i = busWrite a v ∨ i = .tick n ∨ i = .setSpriteOverflow ∨ i = .setSpriteCollision ∨
      i = .readFb →
      t.pending = s.pending ∧ t.latchLo = s.latchLo)

/-- §8's read-buffer property, through the step and for every address: from `pending` = 0, latch an address with the
write code, write a byte through the data port, latch the same address with the read code; the first data read
returns that byte. Six steps, whatever waits behind them. -/
def Obligations.WrittenByteIsReadBackThroughTheBuffer : Prop :=
  ∀ (a : BitVec 14) (v : Byte) (rest : List Request) (s : State), s.running = true →
    s.pending = false →
    s.input = pseudoVramW a ++ [reqOut 0xBE#8 v] ++ pseudoVramR a ++ [reqIn 0xBE#8] ++ rest →
    ∃ t, Host.Core.run Sys2Proof.core 6 s = .next t ∧ t.reply = .byte v ∧ t.input = rest

/-- R346: from `pending` = 0 the two transactions of VDPREG n, v write v to register n and no other register; those of
VDPCMD c, a run the command word of code c and address a, as a row of its own (log 10). -/
def Obligations.PseudoOperationsExpandCorrectly : Prop :=
  ∀ (n : BitVec 4) (v : Byte) (c : BitVec 2) (a : BitVec 14) (rest : List Request) (s : State),
    s.running = true → s.pending = false →
    (s.input = pseudoVdpReg n v ++ rest →
      ∃ t, Host.Core.run Sys2Proof.core 2 s = .next t ∧ t.input = rest ∧
        ∀ m : Fin 16, t.reg m = if m.val = n.toNat then v else s.reg m) ∧
    (s.input = pseudoVdpCmd c a ++ rest →
      Host.Core.run Sys2Proof.core 2 s =
        exec (decodeCommand (c ++ a))
          { s with input := rest, latchLo := a.setWidth 8, pending := true })

/-! ## TICK -/

/-- R602: TICK n adds n to h; every 684 units are one line crossing, the line wraps at LINES_PER_FRAME and the
remainder carries; nothing but h, line, the framebuffer, the status register and the reply changes, and with no
crossing nothing but h. -/
def Obligations.TickAdvancesTheRaster : Prop :=
  ∀ (n : Nat) (s : State), s.running = true → RasterInRange s →
    (∃ t, exec (.tick n) s = .next t ∧
      t.h = (s.h + n) % 684 ∧
      t.line = (s.line + (s.h + n) / 684) % s.config.linesPerFrame ∧
      { t with
        h := s.h, line := s.line, fb := s.fb, status := s.status, reply := s.reply } = s) ∧
    (s.h + n < 684 → exec (.tick n) s = .next { s with h := s.h + n, reply := .vblank false })

/-- R602, R604: TICK returns true, and sets status bit 7, exactly when some crossing reaches the line number
active_height; the status register is otherwise unchanged. -/
def Obligations.TickSignalsVblankExactlyAtTheBoundary : Prop :=
  ∀ (n : Nat) (s : State), s.running = true →
    ∃ t b, exec (.tick n) s = .next t ∧ t.reply = .vblank b ∧
      (b = true ↔ ∃ k, 1 ≤ k ∧ k ≤ (s.h + n) / 684 ∧
        (s.line + k) % s.config.linesPerFrame = s.activeHeight) ∧
      t.status = if b then s.status ||| 0x80#8 else s.status

/-- R602, R605, R619: after TICK n a pixel of row y holds what the renderer gives that line, from the state before the
TICK, exactly where y is an active line that was completed; every other pixel is unchanged. -/
def Obligations.TickPaintsExactlyTheCompletedLines : Prop :=
  ∀ (n : Nat) (s : State), s.running = true → RasterInRange s →
    ∃ t, exec (.tick n) s = .next t ∧
      ∀ x y k, x < 256 → k < 3 →
        ((y < s.activeHeight ∧
            ∃ j, j < (s.h + n) / 684 ∧ (s.line + j) % s.config.linesPerFrame = y) →
          t.fb.read (fbOffset x y + k) = (s.linePixel y x).component k) ∧
        (¬ (y < s.activeHeight ∧
            ∃ j, j < (s.h + n) / 684 ∧ (s.line + j) % s.config.linesPerFrame = y) →
          t.fb.read (fbOffset x y + k) = s.fb.read (fbOffset x y + k))

/-- R602: splitting a TICK changes nothing: TICK m then TICK n reaches the state of TICK (m + n), whose result is true
when either part's is. -/
def Obligations.TickSplitsIntoParts : Prop :=
  ∀ (m n : Nat) (s : State), s.running = true →
    ∃ t u bt bu, exec (.tick m) s = .next t ∧ t.reply = .vblank bt ∧
      exec (.tick n) t = .next u ∧ u.reply = .vblank bu ∧
      exec (.tick (m + n)) s = .next { u with reply := .vblank (bt || bu) }

/-! ## Renderer -/

/-- R600: LM is 224 exactly when M4 = M2 = M1 = 1 and M3 = 0; 240 exactly when M4 = M2 = M3 = 1 and M1 = 0 on PAL; else
192. M4 and M2 are bits 2 and 1 of register 0, M1 and M3 bits 4 and 3 of register 1, as they stand when LM is read. -/
def Obligations.LineModeFollowsTheModeBits : Prop :=
  ∀ s : State,
    (s.lineMode = .lines224 ↔ s.reg 0 &&& 0x06#8 = 0x06#8 ∧ s.reg 1 &&& 0x18#8 = 0x10#8) ∧
    (s.lineMode = .lines240 ↔ s.reg 0 &&& 0x06#8 = 0x06#8 ∧ s.reg 1 &&& 0x18#8 = 0x08#8 ∧
      s.config.region = .pal) ∧
    (s.lineMode = .lines192 ∨ s.lineMode = .lines224 ∨ s.lineMode = .lines240)

/-- R605, R610: on a line where the display is disabled every pixel is BLANK_RGB; where it is enabled, the background
pixel; a line at or past active_height is not painted. -/
def Obligations.RenderLinePaintsBlankOrBackground : Prop :=
  ∀ (line : Nat) (s : State),
    (s.activeHeight ≤ line → s.renderLine line = s) ∧
    (line < s.activeHeight →
      { s.renderLine line with fb := s.fb } = s ∧
      ∀ x y k, x < 256 → k < 3 →
        (s.renderLine line).fb.read (fbOffset x y + k) =
          if y = line then
            (if (s.reg 1).getLsbD 6 then s.bgPixel line x else s.config.blankRgb).component k
          else s.fb.read (fbOffset x y + k))

/-- R611 to R618: the pixel the renderer computes is the one that the rules' arithmetic on plain numbers gives. -/
def Obligations.BackgroundPixelFollowsTheRules : Prop :=
  ∀ (line x : Nat) (s : State), x < 256 →
    ((s.bgPixel line x).r.toNat, (s.bgPixel line x).g.toNat, (s.bgPixel line x).b.toNat) =
      pixelByRules s line x

/-- R614, R615: a descriptor's address is even and at most 0x3EFE, and a pattern row starts at or below 0x3FFC: the
renderer's reads stay inside VRAM. -/
def Obligations.RendererAddressesStayInVram : Prop :=
  ∀ (line x fy : Nat) (s : State) (desc : Word16), fy < 8 →
    s.descAddr line x % 2 = 0 ∧ s.descAddr line x ≤ 0x3EFE ∧ patternRow desc fy ≤ 0x3FFC

/-- R620: READ_FB returns the rows 0 to LM - 1 of the framebuffer and changes no state. That what it returns is a line
mode with a sparse byte map, which reads 0 past the last row, is the model's choice (log 15). -/
def Obligations.ReadFbReturnsTheActiveRows : Prop :=
  ∀ s : State, s.running = true →
    ∃ bytes, exec .readFb s = .next { s with reply := .frame s.lineMode bytes } ∧
      ∀ off, bytes.read off = if off < s.lineMode.height * 768 then s.fb.read off else 0#8

/-! ## LOAD -/

/-- R335, R402, R403: the header offset is the first of 0x7FF0, 0x3FF0 and 0x1FF0 at which the eight bytes of "TMR
SEGA" stand, the ROM is valid exactly when there is one, and the size/region byte and its codes are read as the tables
say. R403, R802, R901, R811, R800, R401: an image without the signature leaves the block idle and changes nothing else;
a valid image under SegaBanked with a bank count that is 0 or no power of two records BANK_COUNT_NOT_POW2; then a wrong
length records ROM_SIZE_MISMATCH; each with its value, in this order, and in any state. That a failing LOAD answers a
next state with the fault recorded, and does not stop the machine for good, is the model's reading (log 8). -/
def Obligations.LoadRejectsInTheOrderOfItsChecks : Prop :=
  (∀ rom : List Byte,
    (romValid rom = true ↔ HasSignature rom) ∧
    (headerOffset rom = some 0x7FF0 ↔ HoldsSignature rom 0x7FF0) ∧
    (headerOffset rom = some 0x3FF0 ↔ HoldsSignature rom 0x3FF0 ∧ ¬ HoldsSignature rom 0x7FF0) ∧
    (headerOffset rom = some 0x1FF0 ↔ HoldsSignature rom 0x1FF0 ∧ ¬ HoldsSignature rom 0x7FF0 ∧
      ¬ HoldsSignature rom 0x3FF0) ∧
    (headerOffset rom = none ↔ ¬ HasSignature rom) ∧
    (∀ o, headerOffset rom = some o → sizeRegionByte rom = rom[o + 15]?) ∧
    (headerOffset rom = none → sizeRegionByte rom = none)) ∧
  (∀ b : Byte, (sizeCode b).toNat = b.toNat % 16 ∧ (regionCode b).toNat = b.toNat / 16) ∧
  (∀ (c : BitVec 4) (size : Nat), sizeOfCode c = some size ↔
    (c.toNat, size) ∈ [(0x0, 256 * 1024), (0x1, 512 * 1024), (0x2, 1024 * 1024), (0xA, 8 * 1024),
      (0xB, 16 * 1024), (0xC, 32 * 1024), (0xD, 48 * 1024), (0xE, 64 * 1024), (0xF, 128 * 1024)]) ∧
  (∀ (c : BitVec 4) (r : HeaderRegion), regionOfCode c = some r ↔
    (c.toNat, r) ∈ [(3, HeaderRegion.smsJapan), (4, .smsExport), (5, .ggJapan), (6, .ggExport),
      (7, .ggInternational)]) ∧
  (∀ (c : BitVec 4) (bc : Nat), deriveBankCount c = some bc ↔
    (c.toNat, bc) ∈ [(0xA, 1), (0xB, 1), (0xC, 2), (0xD, 3), (0xE, 4), (0xF, 8), (0x0, 16), (0x1, 32),
      (0x2, 64)]) ∧
  ∀ (c : Configuration) (s : State),
    (¬ HasSignature c.rom → exec (.load c) s = .next { s with running := false }) ∧
    (HasSignature c.rom → c.mapperKind = .segaBanked → (∀ k, c.bankCount ≠ 2 ^ k) →
      exec (.load c) s =
        .next { s with fault := some (.bankCountNotPow2 c.bankCount), running := false }) ∧
    (HasSignature c.rom → c.mapperKind = .segaBanked → (∃ k, c.bankCount = 2 ^ k) →
      c.rom.length ≠ c.bankCount * 0x4000 →
      exec (.load c) s =
        .next { s with fault := some (.romSizeMismatch c.rom.length), running := false }) ∧
    (HasSignature c.rom → c.mapperKind = .romOnly → 0xC000 < c.rom.length →
      exec (.load c) s =
        .next { s with fault := some (.romSizeMismatch c.rom.length), running := false })

/-- R900, R901, R440, R441: a valid LOAD installs the configuration, sets every VDP and mapper state to its reset value,
empties the fault record, starts the run, and leaves MEM as the mapper's initial mapping. That ram_ctl, slot1_page and
slot2_page are reset under RomOnly too is the model's choice (log 13). -/
def Obligations.ValidLoadSetsTheResetValues : Prop :=
  ∀ (c : Configuration) (s : State), LoadAccepts c →
    ∃ t, exec (.load c) s = .next t ∧
      t.config = c ∧ t.running = true ∧ t.fault = none ∧
      (∀ b, t.vram.read b = 0#8 ∧ t.cram.read b = 0#8 ∧ t.fb.read b = 0#8 ∧ t.sram.read b = 0#8) ∧
      (∀ n, t.reg n = 0#8) ∧ t.addr = 0#16 ∧ t.code = 0#2 ∧ t.pending = false ∧ t.latchLo = 0#8 ∧
      t.rbuf = 0#8 ∧ t.status = 0#8 ∧ t.h = 0 ∧ t.line = 0 ∧ t.ramCtl = 0#8 ∧
      t.slot1Page = 1#8 ∧ t.slot2Page = 2#8 ∧
      (c.mapperKind = .romOnly → ∀ b, t.mem.read b = romByte c b) ∧
      (c.mapperKind = .segaBanked → ∀ b, t.mem.read b =
        if b < 0x4000 then romByte c b
        else if b < 0x8000 then romByte c (1 % c.bankCount * 0x4000 + (b - 0x4000))
        else if b < 0xC000 then romByte c (2 % c.bankCount * 0x4000 + (b - 0x8000))
        else 0#8)

/-- R902: a valid LOAD replaces everything: two blocks with the same operations waiting (and the same count of draws, the
model's own) are the same block after it, whatever they held before. -/
def Obligations.ReloadLeaksNothing : Prop :=
  ∀ (c : Configuration) (s s' : State), LoadAccepts c →
    s.input = s'.input → s.draws = s'.draws → exec (.load c) s = exec (.load c) s'

/-- R115, R116, R800, R804: no operation but LOAD changes the configuration, the run state or the fault record; and while
a fault is recorded only LOAD answers a next state. -/
def Obligations.OnlyLoadChangesTheRun : Prop :=
  ∀ (i : Instr) (s t : State), exec i s = .next t → (∀ c, i ≠ .load c) →
    t.config = s.config ∧ t.running = s.running ∧ t.fault = s.fault ∧
    (FaultStopsRun s → s.fault = none)

/-! ## The whole machine -/

/-- R100, R101, R102, R108, R111, R810: VRAM and CRAM are written only by IO_WR_DATA, CRAM only in code 3 and VRAM only
in another code; a register only by a register-write command; the framebuffer only by TICK; status bits 6 and 5 are set
only by their hooks and bit 7 only by TICK, each of the three is cleared only by a status read, and bits 4:0 never
change. LOAD, the reset, apart. -/
def Obligations.EachPieceOfVideoStateHasOneWriter : Prop :=
  ∀ (i : Instr) (s t : State), exec i s = .next t → (∀ c, i ≠ .load c) →
    (t.vram ≠ s.vram → s.code ≠ 3#2 ∧ ∃ p v, i = .ioWrData p v) ∧
    (t.cram ≠ s.cram → s.code = 3#2 ∧ ∃ p v, i = .ioWrData p v) ∧
    (t.regs ≠ s.regs → (∃ a, i = .cmdRegWrite a) ∨
      ∃ p v, i = .ioWrCtrl p v ∧ s.pending = true ∧ v.toNat / 64 = 2) ∧
    (t.fb ≠ s.fb → ∃ n, i = .tick n) ∧
    (flagF s.status = false → flagF t.status = true → ∃ n, i = .tick n) ∧
    (flagOvr s.status = false → flagOvr t.status = true → i = .setSpriteOverflow) ∧
    (flagCol s.status = false → flagCol t.status = true → i = .setSpriteCollision) ∧
    (flagF s.status = true → flagF t.status = false → ∃ p, i = .ioRdStatus p) ∧
    (flagOvr s.status = true → flagOvr t.status = false → ∃ p, i = .ioRdStatus p) ∧
    (flagCol s.status = true → flagCol t.status = false → ∃ p, i = .ioRdStatus p) ∧
    t.status &&& 0x1F#8 = s.status &&& 0x1F#8

/-- R103 (the registers "stored, no effect"), R512: registers 3 to 7 and 10 to 15 influence nothing. Changing register n
before an operation changes nothing but register n after it, and not the reply; and there register n still holds the
changed value, unless the operation is LOAD or a register write to n (its command word, or the control byte that
completes one). -/
def Obligations.StoredRegistersHaveNoEffect : Prop :=
  ∀ (n : BitVec 4) (v : Byte) (i : Instr) (s t : State),
    (3 ≤ n.toNat ∧ n.toNat ≤ 7) ∨ 10 ≤ n.toNat →
    exec i s = .next t → ∃ w, exec i (s.setReg n v) = .next (t.setReg n w) ∧
      ((∀ c, i ≠ .load c) →
        (∀ a : BitVec 14, i = .cmdRegWrite a → a.toNat / 256 % 16 ≠ n.toNat) →
        (∀ p x : Byte, i = .ioWrCtrl p x → s.pending = true → x.toNat / 64 = 2 →
          x.toNat % 16 ≠ n.toNat) →
        w = v)

/-! ## Invariants -/

/-- R100, R101, R111, R112, R114: every step keeps each memory in canonical form and inside its size. -/
def Obligations.StepsKeepMemoriesCanonical : Prop :=
  ∀ s t : State, MemoriesCanonical s → step s = .next t → MemoriesCanonical t

/-- R109: every step keeps 0 ≤ h < 684 and 0 ≤ line < LINES_PER_FRAME. -/
def Obligations.StepsKeepTheRasterInRange : Prop :=
  ∀ s t : State, RasterInRange s → step s = .next t → RasterInRange t

/-- R108, R800, R401: every step keeps status bits 4:0 at 0, a recorded fault with the block stopped, and the
configuration of a running block loadable. -/
def Obligations.StepsKeepStatusFaultAndConfiguration : Prop :=
  ∀ s t : State, StatusLowZero s ∧ FaultStopsRun s ∧ ConfigLoadable s → step s = .next t →
    StatusLowZero t ∧ FaultStopsRun t ∧ ConfigLoadable t

/-- R431: every step keeps the address-translation view of MEM, from every state with a loadable configuration; and a
valid LOAD establishes it. -/
def Obligations.StepsKeepTheTranslationView : Prop :=
  (∀ s t : State, ConfigLoadable s → TranslationView s → step s = .next t → TranslationView t) ∧
  ∀ (c : Configuration) (s : State), LoadAccepts c →
    ∃ t, exec (.load c) s = .next t ∧ TranslationView t

/-- R116, R117, R900: before any LOAD the block is idle with no fault, every VDP and mapper state at its reset value,
every memory reading 0, and every invariant above holds. All but running and the fault record rest on the model's
reading that State.reset holds R900's values (log 13). -/
def Obligations.ResetIsIdleAndMeetsEveryInvariant : Prop :=
  State.reset.running = false ∧ State.reset.fault = none ∧
  (∀ b, State.reset.vram.read b = 0#8 ∧ State.reset.cram.read b = 0#8 ∧
    State.reset.fb.read b = 0#8 ∧ State.reset.mem.read b = 0#8 ∧ State.reset.sram.read b = 0#8) ∧
  (∀ n, State.reset.reg n = 0#8) ∧ State.reset.addr = 0#16 ∧ State.reset.code = 0#2 ∧
  State.reset.pending = false ∧ State.reset.latchLo = 0#8 ∧ State.reset.rbuf = 0#8 ∧
  State.reset.status = 0#8 ∧ State.reset.h = 0 ∧ State.reset.line = 0 ∧
  State.reset.ramCtl = 0#8 ∧ State.reset.slot1Page = 1#8 ∧ State.reset.slot2Page = 2#8 ∧
  MemoriesCanonical State.reset ∧ AddressLegal State.reset ∧ StatusLowZero State.reset ∧
  RasterInRange State.reset ∧ FaultStopsRun State.reset ∧ ConfigLoadable State.reset ∧
  TranslationView State.reset
end

