-- ==== Sys2Proof/Laws/Bits.lean ====
section
/-! SUPPORT. The bits of each packed form, and each field read back from the form it was packed into. -/

namespace Sys2Proof.Laws

open Machine

theorem getLsbD_busWord (k : BitVec 2) (a : Word16) (d : Byte) (i : Nat) :
    (busWord k a d).getLsbD i =
      if i < 8 then d.getLsbD i
      else if i < 24 then a.getLsbD (i - 8) else k.getLsbD (i - 24) := by
  unfold busWord
  rw [BitVec.getLsbD_append, BitVec.getLsbD_append]
  grind

theorem getLsbD_portAddr (p : Byte) (i : Nat) : (portAddr p).getLsbD i = p.getLsbD i := by
  unfold portAddr
  rw [BitVec.getLsbD_append]
  by_cases h : i < 8
  · simp [h]
  · simp [h, BitVec.getLsbD_of_ge p i (by omega)]

theorem getLsbD_commandWord (second first : Byte) (i : Nat) :
    (commandWord second first).getLsbD i =
      if i < 8 then first.getLsbD i else second.getLsbD (i - 8) := by
  unfold commandWord
  rw [BitVec.getLsbD_append]

theorem getLsbD_mkCommand (c : BitVec 2) (a : BitVec 14) (i : Nat) :
    (mkCommand c a).getLsbD i = if i < 14 then a.getLsbD i else c.getLsbD (i - 14) := by
  unfold mkCommand
  rw [BitVec.getLsbD_append]

theorem getLsbD_tileDescriptor (high low : Byte) (i : Nat) :
    (tileDescriptor high low).getLsbD i =
      if i < 8 then low.getLsbD i else high.getLsbD (i - 8) := by
  unfold tileDescriptor
  rw [BitVec.getLsbD_append]

@[simp] theorem busKind_busWord (k : BitVec 2) (a : Word16) (d : Byte) :
    busKind (busWord k a d) = k := by
  apply BitVec.eq_of_getLsbD_eq
  intro i hi
  rw [busKind, BitVec.getLsbD_extractLsb', getLsbD_busWord, if_neg (by omega), if_neg (by omega)]
  simp [hi]

@[simp] theorem busAddr_busWord (k : BitVec 2) (a : Word16) (d : Byte) :
    busAddr (busWord k a d) = a := by
  apply BitVec.eq_of_getLsbD_eq
  intro i hi
  rw [busAddr, BitVec.getLsbD_extractLsb', getLsbD_busWord, if_neg (by omega), if_pos (by omega)]
  simp [hi]

@[simp] theorem busData_busWord (k : BitVec 2) (a : Word16) (d : Byte) :
    busData (busWord k a d) = d := by
  apply BitVec.eq_of_getLsbD_eq
  intro i hi
  rw [busData, BitVec.getLsbD_extractLsb', getLsbD_busWord, if_pos (by omega)]
  simp [hi]

@[simp] theorem busPort_busWord (k : BitVec 2) (a : Word16) (d : Byte) :
    busPort (busWord k a d) = a.setWidth 8 := by
  apply BitVec.eq_of_getLsbD_eq
  intro i hi
  rw [busPort, BitVec.getLsbD_extractLsb', getLsbD_busWord, if_neg (by omega), if_pos (by omega),
    BitVec.getLsbD_setWidth]
  simp [hi]

@[simp] theorem setWidth_portAddr (p : Byte) : (portAddr p).setWidth 8 = p := by
  apply BitVec.eq_of_getLsbD_eq
  intro i hi
  rw [BitVec.getLsbD_setWidth, getLsbD_portAddr]
  simp [hi]

@[simp] theorem cmdCode_mkCommand (c : BitVec 2) (a : BitVec 14) : cmdCode (mkCommand c a) = c := by
  apply BitVec.eq_of_getLsbD_eq
  intro i hi
  rw [cmdCode, BitVec.getLsbD_extractLsb', getLsbD_mkCommand, if_neg (by omega)]
  simp [hi]

@[simp] theorem cmdAddr_mkCommand (c : BitVec 2) (a : BitVec 14) : cmdAddr (mkCommand c a) = a := by
  apply BitVec.eq_of_getLsbD_eq
  intro i hi
  rw [cmdAddr, BitVec.getLsbD_extractLsb', getLsbD_mkCommand, if_pos (by omega)]
  simp [hi]

/-- A bus word is the packing of its fields. -/
theorem busWord_fields (w : BusWord) : busWord (busKind w) (busAddr w) (busData w) = w := by
  apply BitVec.eq_of_getLsbD_eq
  intro i hi
  rw [getLsbD_busWord, busKind, busAddr, busData]
  simp only [BitVec.getLsbD_extractLsb']
  grind

/-- The port of a bus word is the low byte of its address. -/
theorem busPort_eq (w : BusWord) : busPort w = (busAddr w).setWidth 8 := by
  apply BitVec.eq_of_getLsbD_eq
  intro i hi
  rw [busPort, busAddr, BitVec.getLsbD_setWidth, BitVec.getLsbD_extractLsb',
    BitVec.getLsbD_extractLsb']
  simp only [hi, decide_true, Bool.true_and]
  have : i < 16 := by omega
  simp [this]

end Sys2Proof.Laws
end

