-- ==== Sys2Proof/Laws/Memory.lean ====
section
/-! SUPPORT. The laws of byte memories: what a read gives after each operation, and that every operation
keeps the canonical form and the bound. -/

namespace Sys2Proof.Laws

open Machine

theorem read_nil (a : Nat) : Memory.read [] a = 0#8 := rfl

theorem read_cons (c : Host.Cell) (m : Memory) (a : Nat) :
    Memory.read (c :: m) a = if c.1 = a then c.2 else Memory.read m a := rfl

/-- A memory with no cell at `a` reads 0x00 there. -/
theorem read_of_not_listed {m : Memory} {a : Nat} (h : ∀ c ∈ m, c.1 ≠ a) : m.read a = 0#8 := by
  induction m with
  | nil => rfl
  | cons c m ih =>
    rw [read_cons, if_neg (h c (by simp)), ih (fun d hd => h d (by simp [hd]))]

theorem read_append_left {m n : Memory} {a : Nat} (h : ∀ c ∈ n, c.1 ≠ a) :
    Memory.read (m ++ n) a = m.read a := by
  induction m with
  | nil => simpa [read_nil] using read_of_not_listed h
  | cons c m ih => rw [List.cons_append, read_cons, read_cons, ih]

theorem read_append_right {m n : Memory} {a : Nat} (h : ∀ c ∈ m, c.1 ≠ a) :
    Memory.read (m ++ n) a = n.read a := by
  induction m with
  | nil => rfl
  | cons c m ih =>
    rw [List.cons_append, read_cons, if_neg (h c (by simp)), ih (fun d hd => h d (by simp [hd]))]

/-- Filtering by address keeps the bytes whose address passes. -/
theorem read_filter (m : Memory) (p : Nat → Bool) (a : Nat) :
    Memory.read (m.filter (fun c => p c.1)) a = if p a then m.read a else 0#8 := by
  induction m with
  | nil => simp [read_nil]
  | cons c m ih =>
    rw [List.filter_cons, read_cons]
    by_cases hc : p c.1
    · rw [if_pos hc, read_cons, ih]
      by_cases ha : c.1 = a
      · subst ha; simp [hc]
      · simp [ha]
    · rw [if_neg hc, ih]
      by_cases ha : c.1 = a
      · subst ha; simp [hc]
      · simp [ha]

/-- Every address a memory lists lies in `[base, base + len)`. -/
def Covers (base len : Nat) (m : Memory) : Prop := ∀ c ∈ m, base ≤ c.1 ∧ c.1 < base + len

/-- What a splice reads: the new cells inside the window, the old memory outside. -/
theorem read_splice {m new : Memory} {base len : Nat} (hn : Covers base len new) (a : Nat) :
    (m.splice base len new).read a =
      if base ≤ a ∧ a < base + len then new.read a else m.read a := by
  have low : ∀ c ∈ m.filter (fun c => c.1 < base), c.1 < base := by
    intro c hc; simpa using (List.mem_filter.mp hc).2
  have high : ∀ c ∈ m.filter (fun c => base + len ≤ c.1), base + len ≤ c.1 := by
    intro c hc; simpa using (List.mem_filter.mp hc).2
  unfold Memory.splice
  by_cases h1 : a < base
  · rw [read_append_left (fun c hc => by have := high c hc; omega),
      read_append_left (fun c hc => by have := (hn c hc).1; omega),
      read_filter m (fun k => decide (k < base))]
    simp [h1]
  · by_cases h2 : a < base + len
    · rw [read_append_left (fun c hc => by have := high c hc; omega),
        read_append_right (fun c hc => by have := low c hc; omega), if_pos ⟨by omega, h2⟩]
    · rw [List.append_assoc, read_append_right (fun c hc => by have := low c hc; omega),
        read_append_right (fun c hc => by have := (hn c hc).2; omega),
        read_filter m (fun k => decide (base + len ≤ k))]
      have : base + len ≤ a := by omega
      simp [this]

theorem cells_covers (bytes : List Byte) (base : Nat) :
    Covers base bytes.length (Memory.cells base bytes) := by
  induction bytes generalizing base with
  | nil => intro c hc; simp [Memory.cells] at hc
  | cons v rest ih =>
    intro c hc
    unfold Memory.cells at hc
    split at hc
    · have := ih (base + 1) c hc; simp only [List.length_cons]; omega
    · rcases List.mem_cons.mp hc with rfl | hc
      · simp
      · have := ih (base + 1) c hc; simp only [List.length_cons]; omega

/-- Consecutive cells read as the bytes they were made from. -/
theorem read_cells (bytes : List Byte) (base i : Nat) :
    (Memory.cells base bytes).read (base + i) = (bytes[i]?).getD 0#8 := by
  induction bytes generalizing base i with
  | nil => simp [Memory.cells, read_nil]
  | cons v rest ih =>
    unfold Memory.cells
    cases i with
    | zero =>
      split
      · rename_i hv
        rw [Nat.add_zero, read_of_not_listed]
        · simp [hv]
        · intro c hc; have := (cells_covers rest (base + 1) c hc).1; omega
      · simp [read_cons]
    | succ i =>
      have e : base + (i + 1) = base + 1 + i := by omega
      split
      · rw [e, ih]; simp
      · rw [read_cons, if_neg (by simp), e, ih]; simp

/-- What a blit reads: the byte stored inside the window, the old memory outside. -/
theorem read_blit (m : Memory) (base : Nat) (bytes : List Byte) (a : Nat) :
    (m.blit base bytes).read a =
      if base ≤ a ∧ a < base + bytes.length then (bytes[a - base]?).getD 0#8 else m.read a := by
  unfold Memory.blit
  rw [read_splice (cells_covers bytes base)]
  split
  · rename_i h
    obtain ⟨i, rfl⟩ := Nat.exists_eq_add_of_le h.1
    rw [read_cells]; simp
  · rfl

/-- A read after a write: the byte written at its place, the old byte elsewhere. -/
theorem read_write (m : Memory) (a b : Nat) (v : Byte) :
    (m.write a v).read b = if b = a then v else m.read b := by
  unfold Memory.write
  rw [read_blit]
  by_cases h : b = a
  · subst h; simp
  · rw [if_neg (by simp; omega), if_neg h]

theorem slice_covers (m : Memory) (start len base : Nat) :
    Covers base len (m.slice start len base) := by
  intro c hc
  simp only [Memory.slice, List.mem_map, List.mem_filter, Bool.and_eq_true, decide_eq_true_eq] at hc
  obtain ⟨d, ⟨_, h1, h2⟩, rfl⟩ := hc
  simp only; omega

/-- What a slice reads inside its window: the bytes it was cut from. -/
theorem read_slice (m : Memory) (start len base i : Nat) (hi : i < len) :
    (m.slice start len base).read (base + i) = m.read (start + i) := by
  induction m with
  | nil => rfl
  | cons c m ih =>
    unfold Memory.slice at ih ⊢
    rw [List.filter_cons]
    split
    · rename_i hc
      simp only [Bool.and_eq_true, decide_eq_true_eq] at hc
      rw [List.map_cons, read_cons, read_cons, ih]
      by_cases h : c.1 = start + i
      · rw [if_pos h, if_pos (by simp only; omega)]
      · rw [if_neg h, if_neg (by simp only; omega)]
    · rename_i hc
      simp only [Bool.and_eq_true, decide_eq_true_eq, not_and] at hc
      rw [ih, read_cons, if_neg (by omega)]

/-- What a copy reads: the source's bytes inside the window, the old memory outside. -/
theorem read_copyIn (m : Memory) (base len : Nat) (src : Memory) (start a : Nat) :
    (m.copyIn base len src start).read a =
      if base ≤ a ∧ a < base + len then src.read (start + (a - base)) else m.read a := by
  unfold Memory.copyIn
  rw [read_splice (slice_covers src start len base)]
  split
  · rename_i h
    obtain ⟨i, rfl⟩ := Nat.exists_eq_add_of_le h.1
    rw [read_slice _ _ _ _ _ (by omega)]; simp
  · rfl

/-! ## Canonical form and bound -/

theorem wf_nil : Memory.wf [] := by simp [Memory.wf]

theorem wf_filter {m : Memory} (h : m.wf) (p : Host.Cell → Bool) : Memory.wf (m.filter p) :=
  ⟨h.1.filter p, fun c hc => h.2 c (List.mem_filter.mp hc).1⟩

/-- A splice of canonical cells inside its window is canonical. -/
theorem wf_splice {m new : Memory} {base len : Nat} (hm : m.wf) (hw : Memory.wf new)
    (hn : Covers base len new) : Memory.wf (m.splice base len new) := by
  have low : ∀ c ∈ m.filter (fun c => c.1 < base), c.1 < base := by
    intro c hc; simpa using (List.mem_filter.mp hc).2
  have high : ∀ c ∈ m.filter (fun c => base + len ≤ c.1), base + len ≤ c.1 := by
    intro c hc; simpa using (List.mem_filter.mp hc).2
  unfold Memory.splice
  refine ⟨?_, ?_⟩
  · rw [List.pairwise_append, List.pairwise_append]
    refine ⟨⟨(wf_filter hm _).1, hw.1, ?_⟩, (wf_filter hm _).1, ?_⟩
    · intro c hc d hd
      have := low c hc; have := (hn d hd).1; omega
    · intro c hc d hd
      have h2 := high d hd
      rcases List.mem_append.mp hc with hc | hc
      · have := low c hc; omega
      · have := (hn c hc).2; omega
  · intro c hc
    rcases List.mem_append.mp hc with hc | hc
    · rcases List.mem_append.mp hc with hc | hc
      · exact (wf_filter hm _).2 c hc
      · exact hw.2 c hc
    · exact (wf_filter hm _).2 c hc

theorem wf_cells (bytes : List Byte) (base : Nat) : Memory.wf (Memory.cells base bytes) := by
  induction bytes generalizing base with
  | nil => exact wf_nil
  | cons v rest ih =>
    unfold Memory.cells
    split
    · exact ih (base + 1)
    · rename_i hv
      refine ⟨List.pairwise_cons.mpr ⟨?_, (ih (base + 1)).1⟩, ?_⟩
      · intro c hc; have := (cells_covers rest (base + 1) c hc).1; simp only; omega
      · intro c hc
        rcases List.mem_cons.mp hc with rfl | hc
        · exact hv
        · exact (ih (base + 1)).2 c hc

theorem wf_slice {m : Memory} (h : m.wf) (start len base : Nat) :
    Memory.wf (m.slice start len base) := by
  unfold Memory.slice
  refine ⟨?_, ?_⟩
  · rw [List.pairwise_map]
    refine ((wf_filter h _).1).imp_of_mem ?_
    intro c d hc hd hlt
    simp only [List.mem_filter, Bool.and_eq_true, decide_eq_true_eq] at hc hd
    simp only; omega
  · intro c hc
    obtain ⟨d, hd, rfl⟩ := List.mem_map.mp hc
    exact h.2 d (List.mem_filter.mp hd).1

theorem wf_blit {m : Memory} (h : m.wf) (base : Nat) (bytes : List Byte) :
    Memory.wf (m.blit base bytes) :=
  wf_splice h (wf_cells bytes base) (cells_covers bytes base)

theorem wf_write {m : Memory} (h : m.wf) (a : Nat) (v : Byte) : Memory.wf (m.write a v) :=
  wf_blit h a [v]

theorem wf_copyIn {m src : Memory} (h : m.wf) (hs : src.wf) (base len start : Nat) :
    Memory.wf (m.copyIn base len src start) :=
  wf_splice h (wf_slice hs start len base) (slice_covers src start len base)

theorem within_filter {m : Memory} {n : Nat} (h : m.within n) (p : Host.Cell → Bool) :
    Memory.within (m.filter p) n := fun c hc => h c (List.mem_filter.mp hc).1

theorem within_splice {m new : Memory} {base len n : Nat} (hm : m.within n)
    (hn : Covers base len new) (hb : base + len ≤ n) : Memory.within (m.splice base len new) n := by
  intro c hc
  unfold Memory.splice at hc
  rcases List.mem_append.mp hc with hc | hc
  · rcases List.mem_append.mp hc with hc | hc
    · exact within_filter hm _ c hc
    · have := (hn c hc).2; omega
  · exact within_filter hm _ c hc

theorem within_blit {m : Memory} {n : Nat} (h : m.within n) {base : Nat} {bytes : List Byte}
    (hb : base + bytes.length ≤ n) : Memory.within (m.blit base bytes) n :=
  within_splice h (cells_covers bytes base) hb

theorem within_write {m : Memory} {n : Nat} (h : m.within n) {a : Nat} (ha : a < n) (v : Byte) :
    Memory.within (m.write a v) n :=
  within_blit h (by simpa using ha)

theorem within_copyIn {m src : Memory} {n : Nat} (h : m.within n) {base len start : Nat}
    (hb : base + len ≤ n) : Memory.within (m.copyIn base len src start) n :=
  within_splice h (slice_covers src start len base) hb

/-- Two canonical memories that read alike everywhere are the same data. -/
theorem wf_ext {m n : Memory} (hm : m.wf) (hn : n.wf) (h : ∀ a, m.read a = n.read a) : m = n := by
  induction m generalizing n with
  | nil =>
    cases n with
    | nil => rfl
    | cons d n =>
      have := h d.1
      rw [read_nil, read_cons, if_pos rfl] at this
      exact absurd this.symm (hn.2 d (by simp))
  | cons c m ih =>
    cases n with
    | nil =>
      have := h c.1
      rw [read_nil, read_cons, if_pos rfl] at this
      exact absurd this (hm.2 c (by simp))
    | cons d n =>
      have pc := List.pairwise_cons.mp hm.1
      have pd := List.pairwise_cons.mp hn.1
      have ec : c.1 = d.1 := by
        rcases Nat.lt_trichotomy c.1 d.1 with hlt | heq | hlt
        · have hc := h c.1
          rw [read_cons, if_pos rfl, read_of_not_listed] at hc
          · exact absurd hc (hm.2 c (by simp))
          · intro e he
            rcases List.mem_cons.mp he with rfl | he
            · omega
            · have := pd.1 e he; omega
        · exact heq
        · have hd := h d.1
          rw [read_cons (c := d), if_pos rfl, read_of_not_listed] at hd
          · exact absurd hd.symm (hn.2 d (by simp))
          · intro e he
            rcases List.mem_cons.mp he with rfl | he
            · omega
            · have := pc.1 e he; omega
      have ev : c.2 = d.2 := by
        have := h c.1
        rwa [read_cons, if_pos rfl, read_cons, if_pos ec.symm] at this
      have e : c = d := Prod.ext ec ev
      subst e
      have : m = n := by
        refine ih ⟨pc.2, fun x hx => hm.2 x (by simp [hx])⟩ ⟨pd.2, fun x hx => hn.2 x (by simp [hx])⟩ ?_
        intro a
        have ha := h a
        rw [read_cons, read_cons] at ha
        by_cases hca : c.1 = a
        · subst hca
          rw [read_of_not_listed (fun x hx => by have := pc.1 x hx; omega),
            read_of_not_listed (fun x hx => by have := pd.1 x hx; omega)]
        · rwa [if_neg hca, if_neg hca] at ha
      rw [this]

end Sys2Proof.Laws
end

