-- ==== Sys2Proof/Laws/State.lean ====
section
/-! SUPPORT. One lemma per field per named update of State, true by rfl: no proof unfolds an update. -/

namespace Sys2Proof.Laws

open Machine

@[simp] theorem recordFault_vram (s : State) (f : LoadFault) :
    (s.recordFault f).vram = s.vram := rfl
@[simp] theorem recordFault_cram (s : State) (f : LoadFault) :
    (s.recordFault f).cram = s.cram := rfl
@[simp] theorem recordFault_regs (s : State) (f : LoadFault) :
    (s.recordFault f).regs = s.regs := rfl
@[simp] theorem recordFault_addr (s : State) (f : LoadFault) :
    (s.recordFault f).addr = s.addr := rfl
@[simp] theorem recordFault_code (s : State) (f : LoadFault) :
    (s.recordFault f).code = s.code := rfl
@[simp] theorem recordFault_pending (s : State) (f : LoadFault) :
    (s.recordFault f).pending = s.pending := rfl
@[simp] theorem recordFault_latchLo (s : State) (f : LoadFault) :
    (s.recordFault f).latchLo = s.latchLo := rfl
@[simp] theorem recordFault_rbuf (s : State) (f : LoadFault) :
    (s.recordFault f).rbuf = s.rbuf := rfl
@[simp] theorem recordFault_status (s : State) (f : LoadFault) :
    (s.recordFault f).status = s.status := rfl
@[simp] theorem recordFault_h (s : State) (f : LoadFault) :
    (s.recordFault f).h = s.h := rfl
@[simp] theorem recordFault_line (s : State) (f : LoadFault) :
    (s.recordFault f).line = s.line := rfl
@[simp] theorem recordFault_fb (s : State) (f : LoadFault) :
    (s.recordFault f).fb = s.fb := rfl
@[simp] theorem recordFault_mem (s : State) (f : LoadFault) :
    (s.recordFault f).mem = s.mem := rfl
@[simp] theorem recordFault_ramCtl (s : State) (f : LoadFault) :
    (s.recordFault f).ramCtl = s.ramCtl := rfl
@[simp] theorem recordFault_slot1Page (s : State) (f : LoadFault) :
    (s.recordFault f).slot1Page = s.slot1Page := rfl
@[simp] theorem recordFault_slot2Page (s : State) (f : LoadFault) :
    (s.recordFault f).slot2Page = s.slot2Page := rfl
@[simp] theorem recordFault_sram (s : State) (f : LoadFault) :
    (s.recordFault f).sram = s.sram := rfl
@[simp] theorem recordFault_config (s : State) (f : LoadFault) :
    (s.recordFault f).config = s.config := rfl
@[simp] theorem recordFault_running (s : State) (f : LoadFault) :
    (s.recordFault f).running = false := rfl
@[simp] theorem recordFault_fault (s : State) (f : LoadFault) :
    (s.recordFault f).fault = some f := rfl
@[simp] theorem recordFault_input (s : State) (f : LoadFault) :
    (s.recordFault f).input = s.input := rfl
@[simp] theorem recordFault_reply (s : State) (f : LoadFault) :
    (s.recordFault f).reply = s.reply := rfl
@[simp] theorem recordFault_draws (s : State) (f : LoadFault) :
    (s.recordFault f).draws = s.draws := rfl

@[simp] theorem answer_vram (s : State) (r : Reply) :
    (s.answer r).vram = s.vram := rfl
@[simp] theorem answer_cram (s : State) (r : Reply) :
    (s.answer r).cram = s.cram := rfl
@[simp] theorem answer_regs (s : State) (r : Reply) :
    (s.answer r).regs = s.regs := rfl
@[simp] theorem answer_addr (s : State) (r : Reply) :
    (s.answer r).addr = s.addr := rfl
@[simp] theorem answer_code (s : State) (r : Reply) :
    (s.answer r).code = s.code := rfl
@[simp] theorem answer_pending (s : State) (r : Reply) :
    (s.answer r).pending = s.pending := rfl
@[simp] theorem answer_latchLo (s : State) (r : Reply) :
    (s.answer r).latchLo = s.latchLo := rfl
@[simp] theorem answer_rbuf (s : State) (r : Reply) :
    (s.answer r).rbuf = s.rbuf := rfl
@[simp] theorem answer_status (s : State) (r : Reply) :
    (s.answer r).status = s.status := rfl
@[simp] theorem answer_h (s : State) (r : Reply) :
    (s.answer r).h = s.h := rfl
@[simp] theorem answer_line (s : State) (r : Reply) :
    (s.answer r).line = s.line := rfl
@[simp] theorem answer_fb (s : State) (r : Reply) :
    (s.answer r).fb = s.fb := rfl
@[simp] theorem answer_mem (s : State) (r : Reply) :
    (s.answer r).mem = s.mem := rfl
@[simp] theorem answer_ramCtl (s : State) (r : Reply) :
    (s.answer r).ramCtl = s.ramCtl := rfl
@[simp] theorem answer_slot1Page (s : State) (r : Reply) :
    (s.answer r).slot1Page = s.slot1Page := rfl
@[simp] theorem answer_slot2Page (s : State) (r : Reply) :
    (s.answer r).slot2Page = s.slot2Page := rfl
@[simp] theorem answer_sram (s : State) (r : Reply) :
    (s.answer r).sram = s.sram := rfl
@[simp] theorem answer_config (s : State) (r : Reply) :
    (s.answer r).config = s.config := rfl
@[simp] theorem answer_running (s : State) (r : Reply) :
    (s.answer r).running = s.running := rfl
@[simp] theorem answer_fault (s : State) (r : Reply) :
    (s.answer r).fault = s.fault := rfl
@[simp] theorem answer_input (s : State) (r : Reply) :
    (s.answer r).input = s.input := rfl
@[simp] theorem answer_reply (s : State) (r : Reply) :
    (s.answer r).reply = r := rfl
@[simp] theorem answer_draws (s : State) (r : Reply) :
    (s.answer r).draws = s.draws := rfl

@[simp] theorem answerDrawn_vram (s : State) :
    (s.answerDrawn).vram = s.vram := rfl
@[simp] theorem answerDrawn_cram (s : State) :
    (s.answerDrawn).cram = s.cram := rfl
@[simp] theorem answerDrawn_regs (s : State) :
    (s.answerDrawn).regs = s.regs := rfl
@[simp] theorem answerDrawn_addr (s : State) :
    (s.answerDrawn).addr = s.addr := rfl
@[simp] theorem answerDrawn_code (s : State) :
    (s.answerDrawn).code = s.code := rfl
@[simp] theorem answerDrawn_pending (s : State) :
    (s.answerDrawn).pending = s.pending := rfl
@[simp] theorem answerDrawn_latchLo (s : State) :
    (s.answerDrawn).latchLo = s.latchLo := rfl
@[simp] theorem answerDrawn_rbuf (s : State) :
    (s.answerDrawn).rbuf = s.rbuf := rfl
@[simp] theorem answerDrawn_status (s : State) :
    (s.answerDrawn).status = s.status := rfl
@[simp] theorem answerDrawn_h (s : State) :
    (s.answerDrawn).h = s.h := rfl
@[simp] theorem answerDrawn_line (s : State) :
    (s.answerDrawn).line = s.line := rfl
@[simp] theorem answerDrawn_fb (s : State) :
    (s.answerDrawn).fb = s.fb := rfl
@[simp] theorem answerDrawn_mem (s : State) :
    (s.answerDrawn).mem = s.mem := rfl
@[simp] theorem answerDrawn_ramCtl (s : State) :
    (s.answerDrawn).ramCtl = s.ramCtl := rfl
@[simp] theorem answerDrawn_slot1Page (s : State) :
    (s.answerDrawn).slot1Page = s.slot1Page := rfl
@[simp] theorem answerDrawn_slot2Page (s : State) :
    (s.answerDrawn).slot2Page = s.slot2Page := rfl
@[simp] theorem answerDrawn_sram (s : State) :
    (s.answerDrawn).sram = s.sram := rfl
@[simp] theorem answerDrawn_config (s : State) :
    (s.answerDrawn).config = s.config := rfl
@[simp] theorem answerDrawn_running (s : State) :
    (s.answerDrawn).running = s.running := rfl
@[simp] theorem answerDrawn_fault (s : State) :
    (s.answerDrawn).fault = s.fault := rfl
@[simp] theorem answerDrawn_input (s : State) :
    (s.answerDrawn).input = s.input := rfl
@[simp] theorem answerDrawn_reply (s : State) :
    (s.answerDrawn).reply = .byte (Config.drawnByte s.draws) := rfl
@[simp] theorem answerDrawn_draws (s : State) :
    (s.answerDrawn).draws = s.draws + 1 := rfl

@[simp] theorem setReg_vram (s : State) (n : BitVec 4) (v : Byte) :
    (s.setReg n v).vram = s.vram := rfl
@[simp] theorem setReg_cram (s : State) (n : BitVec 4) (v : Byte) :
    (s.setReg n v).cram = s.cram := rfl
@[simp] theorem setReg_regs (s : State) (n : BitVec 4) (v : Byte) :
    (s.setReg n v).regs = s.regs.set n.toNat v n.isLt := rfl
@[simp] theorem setReg_addr (s : State) (n : BitVec 4) (v : Byte) :
    (s.setReg n v).addr = s.addr := rfl
@[simp] theorem setReg_code (s : State) (n : BitVec 4) (v : Byte) :
    (s.setReg n v).code = s.code := rfl
@[simp] theorem setReg_pending (s : State) (n : BitVec 4) (v : Byte) :
    (s.setReg n v).pending = s.pending := rfl
@[simp] theorem setReg_latchLo (s : State) (n : BitVec 4) (v : Byte) :
    (s.setReg n v).latchLo = s.latchLo := rfl
@[simp] theorem setReg_rbuf (s : State) (n : BitVec 4) (v : Byte) :
    (s.setReg n v).rbuf = s.rbuf := rfl
@[simp] theorem setReg_status (s : State) (n : BitVec 4) (v : Byte) :
    (s.setReg n v).status = s.status := rfl
@[simp] theorem setReg_h (s : State) (n : BitVec 4) (v : Byte) :
    (s.setReg n v).h = s.h := rfl
@[simp] theorem setReg_line (s : State) (n : BitVec 4) (v : Byte) :
    (s.setReg n v).line = s.line := rfl
@[simp] theorem setReg_fb (s : State) (n : BitVec 4) (v : Byte) :
    (s.setReg n v).fb = s.fb := rfl
@[simp] theorem setReg_mem (s : State) (n : BitVec 4) (v : Byte) :
    (s.setReg n v).mem = s.mem := rfl
@[simp] theorem setReg_ramCtl (s : State) (n : BitVec 4) (v : Byte) :
    (s.setReg n v).ramCtl = s.ramCtl := rfl
@[simp] theorem setReg_slot1Page (s : State) (n : BitVec 4) (v : Byte) :
    (s.setReg n v).slot1Page = s.slot1Page := rfl
@[simp] theorem setReg_slot2Page (s : State) (n : BitVec 4) (v : Byte) :
    (s.setReg n v).slot2Page = s.slot2Page := rfl
@[simp] theorem setReg_sram (s : State) (n : BitVec 4) (v : Byte) :
    (s.setReg n v).sram = s.sram := rfl
@[simp] theorem setReg_config (s : State) (n : BitVec 4) (v : Byte) :
    (s.setReg n v).config = s.config := rfl
@[simp] theorem setReg_running (s : State) (n : BitVec 4) (v : Byte) :
    (s.setReg n v).running = s.running := rfl
@[simp] theorem setReg_fault (s : State) (n : BitVec 4) (v : Byte) :
    (s.setReg n v).fault = s.fault := rfl
@[simp] theorem setReg_input (s : State) (n : BitVec 4) (v : Byte) :
    (s.setReg n v).input = s.input := rfl
@[simp] theorem setReg_reply (s : State) (n : BitVec 4) (v : Byte) :
    (s.setReg n v).reply = s.reply := rfl
@[simp] theorem setReg_draws (s : State) (n : BitVec 4) (v : Byte) :
    (s.setReg n v).draws = s.draws := rfl

@[simp] theorem latchFirst_vram (s : State) (v : Byte) :
    (s.latchFirst v).vram = s.vram := rfl
@[simp] theorem latchFirst_cram (s : State) (v : Byte) :
    (s.latchFirst v).cram = s.cram := rfl
@[simp] theorem latchFirst_regs (s : State) (v : Byte) :
    (s.latchFirst v).regs = s.regs := rfl
@[simp] theorem latchFirst_addr (s : State) (v : Byte) :
    (s.latchFirst v).addr = s.addr := rfl
@[simp] theorem latchFirst_code (s : State) (v : Byte) :
    (s.latchFirst v).code = s.code := rfl
@[simp] theorem latchFirst_pending (s : State) (v : Byte) :
    (s.latchFirst v).pending = true := rfl
@[simp] theorem latchFirst_latchLo (s : State) (v : Byte) :
    (s.latchFirst v).latchLo = v := rfl
@[simp] theorem latchFirst_rbuf (s : State) (v : Byte) :
    (s.latchFirst v).rbuf = s.rbuf := rfl
@[simp] theorem latchFirst_status (s : State) (v : Byte) :
    (s.latchFirst v).status = s.status := rfl
@[simp] theorem latchFirst_h (s : State) (v : Byte) :
    (s.latchFirst v).h = s.h := rfl
@[simp] theorem latchFirst_line (s : State) (v : Byte) :
    (s.latchFirst v).line = s.line := rfl
@[simp] theorem latchFirst_fb (s : State) (v : Byte) :
    (s.latchFirst v).fb = s.fb := rfl
@[simp] theorem latchFirst_mem (s : State) (v : Byte) :
    (s.latchFirst v).mem = s.mem := rfl
@[simp] theorem latchFirst_ramCtl (s : State) (v : Byte) :
    (s.latchFirst v).ramCtl = s.ramCtl := rfl
@[simp] theorem latchFirst_slot1Page (s : State) (v : Byte) :
    (s.latchFirst v).slot1Page = s.slot1Page := rfl
@[simp] theorem latchFirst_slot2Page (s : State) (v : Byte) :
    (s.latchFirst v).slot2Page = s.slot2Page := rfl
@[simp] theorem latchFirst_sram (s : State) (v : Byte) :
    (s.latchFirst v).sram = s.sram := rfl
@[simp] theorem latchFirst_config (s : State) (v : Byte) :
    (s.latchFirst v).config = s.config := rfl
@[simp] theorem latchFirst_running (s : State) (v : Byte) :
    (s.latchFirst v).running = s.running := rfl
@[simp] theorem latchFirst_fault (s : State) (v : Byte) :
    (s.latchFirst v).fault = s.fault := rfl
@[simp] theorem latchFirst_input (s : State) (v : Byte) :
    (s.latchFirst v).input = s.input := rfl
@[simp] theorem latchFirst_reply (s : State) (v : Byte) :
    (s.latchFirst v).reply = s.reply := rfl
@[simp] theorem latchFirst_draws (s : State) (v : Byte) :
    (s.latchFirst v).draws = s.draws := rfl

@[simp] theorem clearPending_vram (s : State) :
    (s.clearPending).vram = s.vram := rfl
@[simp] theorem clearPending_cram (s : State) :
    (s.clearPending).cram = s.cram := rfl
@[simp] theorem clearPending_regs (s : State) :
    (s.clearPending).regs = s.regs := rfl
@[simp] theorem clearPending_addr (s : State) :
    (s.clearPending).addr = s.addr := rfl
@[simp] theorem clearPending_code (s : State) :
    (s.clearPending).code = s.code := rfl
@[simp] theorem clearPending_pending (s : State) :
    (s.clearPending).pending = false := rfl
@[simp] theorem clearPending_latchLo (s : State) :
    (s.clearPending).latchLo = s.latchLo := rfl
@[simp] theorem clearPending_rbuf (s : State) :
    (s.clearPending).rbuf = s.rbuf := rfl
@[simp] theorem clearPending_status (s : State) :
    (s.clearPending).status = s.status := rfl
@[simp] theorem clearPending_h (s : State) :
    (s.clearPending).h = s.h := rfl
@[simp] theorem clearPending_line (s : State) :
    (s.clearPending).line = s.line := rfl
@[simp] theorem clearPending_fb (s : State) :
    (s.clearPending).fb = s.fb := rfl
@[simp] theorem clearPending_mem (s : State) :
    (s.clearPending).mem = s.mem := rfl
@[simp] theorem clearPending_ramCtl (s : State) :
    (s.clearPending).ramCtl = s.ramCtl := rfl
@[simp] theorem clearPending_slot1Page (s : State) :
    (s.clearPending).slot1Page = s.slot1Page := rfl
@[simp] theorem clearPending_slot2Page (s : State) :
    (s.clearPending).slot2Page = s.slot2Page := rfl
@[simp] theorem clearPending_sram (s : State) :
    (s.clearPending).sram = s.sram := rfl
@[simp] theorem clearPending_config (s : State) :
    (s.clearPending).config = s.config := rfl
@[simp] theorem clearPending_running (s : State) :
    (s.clearPending).running = s.running := rfl
@[simp] theorem clearPending_fault (s : State) :
    (s.clearPending).fault = s.fault := rfl
@[simp] theorem clearPending_input (s : State) :
    (s.clearPending).input = s.input := rfl
@[simp] theorem clearPending_reply (s : State) :
    (s.clearPending).reply = s.reply := rfl
@[simp] theorem clearPending_draws (s : State) :
    (s.clearPending).draws = s.draws := rfl

@[simp] theorem advance_vram (s : State) :
    (s.advance).vram = s.vram := rfl
@[simp] theorem advance_cram (s : State) :
    (s.advance).cram = s.cram := rfl
@[simp] theorem advance_regs (s : State) :
    (s.advance).regs = s.regs := rfl
@[simp] theorem advance_addr (s : State) :
    (s.advance).addr = inc s.addr := rfl
@[simp] theorem advance_code (s : State) :
    (s.advance).code = s.code := rfl
@[simp] theorem advance_pending (s : State) :
    (s.advance).pending = s.pending := rfl
@[simp] theorem advance_latchLo (s : State) :
    (s.advance).latchLo = s.latchLo := rfl
@[simp] theorem advance_rbuf (s : State) :
    (s.advance).rbuf = s.rbuf := rfl
@[simp] theorem advance_status (s : State) :
    (s.advance).status = s.status := rfl
@[simp] theorem advance_h (s : State) :
    (s.advance).h = s.h := rfl
@[simp] theorem advance_line (s : State) :
    (s.advance).line = s.line := rfl
@[simp] theorem advance_fb (s : State) :
    (s.advance).fb = s.fb := rfl
@[simp] theorem advance_mem (s : State) :
    (s.advance).mem = s.mem := rfl
@[simp] theorem advance_ramCtl (s : State) :
    (s.advance).ramCtl = s.ramCtl := rfl
@[simp] theorem advance_slot1Page (s : State) :
    (s.advance).slot1Page = s.slot1Page := rfl
@[simp] theorem advance_slot2Page (s : State) :
    (s.advance).slot2Page = s.slot2Page := rfl
@[simp] theorem advance_sram (s : State) :
    (s.advance).sram = s.sram := rfl
@[simp] theorem advance_config (s : State) :
    (s.advance).config = s.config := rfl
@[simp] theorem advance_running (s : State) :
    (s.advance).running = s.running := rfl
@[simp] theorem advance_fault (s : State) :
    (s.advance).fault = s.fault := rfl
@[simp] theorem advance_input (s : State) :
    (s.advance).input = s.input := rfl
@[simp] theorem advance_reply (s : State) :
    (s.advance).reply = s.reply := rfl
@[simp] theorem advance_draws (s : State) :
    (s.advance).draws = s.draws := rfl

@[simp] theorem loadCommand_vram (s : State) (c : BitVec 2) (a : BitVec 14) :
    (s.loadCommand c a).vram = s.vram := rfl
@[simp] theorem loadCommand_cram (s : State) (c : BitVec 2) (a : BitVec 14) :
    (s.loadCommand c a).cram = s.cram := rfl
@[simp] theorem loadCommand_regs (s : State) (c : BitVec 2) (a : BitVec 14) :
    (s.loadCommand c a).regs = s.regs := rfl
@[simp] theorem loadCommand_addr (s : State) (c : BitVec 2) (a : BitVec 14) :
    (s.loadCommand c a).addr = a.setWidth 16 := rfl
@[simp] theorem loadCommand_code (s : State) (c : BitVec 2) (a : BitVec 14) :
    (s.loadCommand c a).code = c := rfl
@[simp] theorem loadCommand_pending (s : State) (c : BitVec 2) (a : BitVec 14) :
    (s.loadCommand c a).pending = s.pending := rfl
@[simp] theorem loadCommand_latchLo (s : State) (c : BitVec 2) (a : BitVec 14) :
    (s.loadCommand c a).latchLo = s.latchLo := rfl
@[simp] theorem loadCommand_rbuf (s : State) (c : BitVec 2) (a : BitVec 14) :
    (s.loadCommand c a).rbuf = s.rbuf := rfl
@[simp] theorem loadCommand_status (s : State) (c : BitVec 2) (a : BitVec 14) :
    (s.loadCommand c a).status = s.status := rfl
@[simp] theorem loadCommand_h (s : State) (c : BitVec 2) (a : BitVec 14) :
    (s.loadCommand c a).h = s.h := rfl
@[simp] theorem loadCommand_line (s : State) (c : BitVec 2) (a : BitVec 14) :
    (s.loadCommand c a).line = s.line := rfl
@[simp] theorem loadCommand_fb (s : State) (c : BitVec 2) (a : BitVec 14) :
    (s.loadCommand c a).fb = s.fb := rfl
@[simp] theorem loadCommand_mem (s : State) (c : BitVec 2) (a : BitVec 14) :
    (s.loadCommand c a).mem = s.mem := rfl
@[simp] theorem loadCommand_ramCtl (s : State) (c : BitVec 2) (a : BitVec 14) :
    (s.loadCommand c a).ramCtl = s.ramCtl := rfl
@[simp] theorem loadCommand_slot1Page (s : State) (c : BitVec 2) (a : BitVec 14) :
    (s.loadCommand c a).slot1Page = s.slot1Page := rfl
@[simp] theorem loadCommand_slot2Page (s : State) (c : BitVec 2) (a : BitVec 14) :
    (s.loadCommand c a).slot2Page = s.slot2Page := rfl
@[simp] theorem loadCommand_sram (s : State) (c : BitVec 2) (a : BitVec 14) :
    (s.loadCommand c a).sram = s.sram := rfl
@[simp] theorem loadCommand_config (s : State) (c : BitVec 2) (a : BitVec 14) :
    (s.loadCommand c a).config = s.config := rfl
@[simp] theorem loadCommand_running (s : State) (c : BitVec 2) (a : BitVec 14) :
    (s.loadCommand c a).running = s.running := rfl
@[simp] theorem loadCommand_fault (s : State) (c : BitVec 2) (a : BitVec 14) :
    (s.loadCommand c a).fault = s.fault := rfl
@[simp] theorem loadCommand_input (s : State) (c : BitVec 2) (a : BitVec 14) :
    (s.loadCommand c a).input = s.input := rfl
@[simp] theorem loadCommand_reply (s : State) (c : BitVec 2) (a : BitVec 14) :
    (s.loadCommand c a).reply = s.reply := rfl
@[simp] theorem loadCommand_draws (s : State) (c : BitVec 2) (a : BitVec 14) :
    (s.loadCommand c a).draws = s.draws := rfl

@[simp] theorem prime_vram (s : State) :
    (s.prime).vram = s.vram := rfl
@[simp] theorem prime_cram (s : State) :
    (s.prime).cram = s.cram := rfl
@[simp] theorem prime_regs (s : State) :
    (s.prime).regs = s.regs := rfl
@[simp] theorem prime_addr (s : State) :
    (s.prime).addr = inc s.addr := rfl
@[simp] theorem prime_code (s : State) :
    (s.prime).code = s.code := rfl
@[simp] theorem prime_pending (s : State) :
    (s.prime).pending = s.pending := rfl
@[simp] theorem prime_latchLo (s : State) :
    (s.prime).latchLo = s.latchLo := rfl
@[simp] theorem prime_rbuf (s : State) :
    (s.prime).rbuf = s.vram.read (vIdx s.addr) := rfl
@[simp] theorem prime_status (s : State) :
    (s.prime).status = s.status := rfl
@[simp] theorem prime_h (s : State) :
    (s.prime).h = s.h := rfl
@[simp] theorem prime_line (s : State) :
    (s.prime).line = s.line := rfl
@[simp] theorem prime_fb (s : State) :
    (s.prime).fb = s.fb := rfl
@[simp] theorem prime_mem (s : State) :
    (s.prime).mem = s.mem := rfl
@[simp] theorem prime_ramCtl (s : State) :
    (s.prime).ramCtl = s.ramCtl := rfl
@[simp] theorem prime_slot1Page (s : State) :
    (s.prime).slot1Page = s.slot1Page := rfl
@[simp] theorem prime_slot2Page (s : State) :
    (s.prime).slot2Page = s.slot2Page := rfl
@[simp] theorem prime_sram (s : State) :
    (s.prime).sram = s.sram := rfl
@[simp] theorem prime_config (s : State) :
    (s.prime).config = s.config := rfl
@[simp] theorem prime_running (s : State) :
    (s.prime).running = s.running := rfl
@[simp] theorem prime_fault (s : State) :
    (s.prime).fault = s.fault := rfl
@[simp] theorem prime_input (s : State) :
    (s.prime).input = s.input := rfl
@[simp] theorem prime_reply (s : State) :
    (s.prime).reply = s.reply := rfl
@[simp] theorem prime_draws (s : State) :
    (s.prime).draws = s.draws := rfl

@[simp] theorem setStatus_vram (s : State) (st : Byte) :
    (s.setStatus st).vram = s.vram := rfl
@[simp] theorem setStatus_cram (s : State) (st : Byte) :
    (s.setStatus st).cram = s.cram := rfl
@[simp] theorem setStatus_regs (s : State) (st : Byte) :
    (s.setStatus st).regs = s.regs := rfl
@[simp] theorem setStatus_addr (s : State) (st : Byte) :
    (s.setStatus st).addr = s.addr := rfl
@[simp] theorem setStatus_code (s : State) (st : Byte) :
    (s.setStatus st).code = s.code := rfl
@[simp] theorem setStatus_pending (s : State) (st : Byte) :
    (s.setStatus st).pending = s.pending := rfl
@[simp] theorem setStatus_latchLo (s : State) (st : Byte) :
    (s.setStatus st).latchLo = s.latchLo := rfl
@[simp] theorem setStatus_rbuf (s : State) (st : Byte) :
    (s.setStatus st).rbuf = s.rbuf := rfl
@[simp] theorem setStatus_status (s : State) (st : Byte) :
    (s.setStatus st).status = st := rfl
@[simp] theorem setStatus_h (s : State) (st : Byte) :
    (s.setStatus st).h = s.h := rfl
@[simp] theorem setStatus_line (s : State) (st : Byte) :
    (s.setStatus st).line = s.line := rfl
@[simp] theorem setStatus_fb (s : State) (st : Byte) :
    (s.setStatus st).fb = s.fb := rfl
@[simp] theorem setStatus_mem (s : State) (st : Byte) :
    (s.setStatus st).mem = s.mem := rfl
@[simp] theorem setStatus_ramCtl (s : State) (st : Byte) :
    (s.setStatus st).ramCtl = s.ramCtl := rfl
@[simp] theorem setStatus_slot1Page (s : State) (st : Byte) :
    (s.setStatus st).slot1Page = s.slot1Page := rfl
@[simp] theorem setStatus_slot2Page (s : State) (st : Byte) :
    (s.setStatus st).slot2Page = s.slot2Page := rfl
@[simp] theorem setStatus_sram (s : State) (st : Byte) :
    (s.setStatus st).sram = s.sram := rfl
@[simp] theorem setStatus_config (s : State) (st : Byte) :
    (s.setStatus st).config = s.config := rfl
@[simp] theorem setStatus_running (s : State) (st : Byte) :
    (s.setStatus st).running = s.running := rfl
@[simp] theorem setStatus_fault (s : State) (st : Byte) :
    (s.setStatus st).fault = s.fault := rfl
@[simp] theorem setStatus_input (s : State) (st : Byte) :
    (s.setStatus st).input = s.input := rfl
@[simp] theorem setStatus_reply (s : State) (st : Byte) :
    (s.setStatus st).reply = s.reply := rfl
@[simp] theorem setStatus_draws (s : State) (st : Byte) :
    (s.setStatus st).draws = s.draws := rfl

@[simp] theorem store_vram (s : State) (a : Nat) (v : Byte) :
    (s.store a v).vram = s.vram := rfl
@[simp] theorem store_cram (s : State) (a : Nat) (v : Byte) :
    (s.store a v).cram = s.cram := rfl
@[simp] theorem store_regs (s : State) (a : Nat) (v : Byte) :
    (s.store a v).regs = s.regs := rfl
@[simp] theorem store_addr (s : State) (a : Nat) (v : Byte) :
    (s.store a v).addr = s.addr := rfl
@[simp] theorem store_code (s : State) (a : Nat) (v : Byte) :
    (s.store a v).code = s.code := rfl
@[simp] theorem store_pending (s : State) (a : Nat) (v : Byte) :
    (s.store a v).pending = s.pending := rfl
@[simp] theorem store_latchLo (s : State) (a : Nat) (v : Byte) :
    (s.store a v).latchLo = s.latchLo := rfl
@[simp] theorem store_rbuf (s : State) (a : Nat) (v : Byte) :
    (s.store a v).rbuf = s.rbuf := rfl
@[simp] theorem store_status (s : State) (a : Nat) (v : Byte) :
    (s.store a v).status = s.status := rfl
@[simp] theorem store_h (s : State) (a : Nat) (v : Byte) :
    (s.store a v).h = s.h := rfl
@[simp] theorem store_line (s : State) (a : Nat) (v : Byte) :
    (s.store a v).line = s.line := rfl
@[simp] theorem store_fb (s : State) (a : Nat) (v : Byte) :
    (s.store a v).fb = s.fb := rfl
@[simp] theorem store_mem (s : State) (a : Nat) (v : Byte) :
    (s.store a v).mem = s.mem.write a v := rfl
@[simp] theorem store_ramCtl (s : State) (a : Nat) (v : Byte) :
    (s.store a v).ramCtl = s.ramCtl := rfl
@[simp] theorem store_slot1Page (s : State) (a : Nat) (v : Byte) :
    (s.store a v).slot1Page = s.slot1Page := rfl
@[simp] theorem store_slot2Page (s : State) (a : Nat) (v : Byte) :
    (s.store a v).slot2Page = s.slot2Page := rfl
@[simp] theorem store_sram (s : State) (a : Nat) (v : Byte) :
    (s.store a v).sram = s.sram := rfl
@[simp] theorem store_config (s : State) (a : Nat) (v : Byte) :
    (s.store a v).config = s.config := rfl
@[simp] theorem store_running (s : State) (a : Nat) (v : Byte) :
    (s.store a v).running = s.running := rfl
@[simp] theorem store_fault (s : State) (a : Nat) (v : Byte) :
    (s.store a v).fault = s.fault := rfl
@[simp] theorem store_input (s : State) (a : Nat) (v : Byte) :
    (s.store a v).input = s.input := rfl
@[simp] theorem store_reply (s : State) (a : Nat) (v : Byte) :
    (s.store a v).reply = s.reply := rfl
@[simp] theorem store_draws (s : State) (a : Nat) (v : Byte) :
    (s.store a v).draws = s.draws := rfl

@[simp] theorem copySramPage_vram (s : State) :
    (s.copySramPage).vram = s.vram := rfl
@[simp] theorem copySramPage_cram (s : State) :
    (s.copySramPage).cram = s.cram := rfl
@[simp] theorem copySramPage_regs (s : State) :
    (s.copySramPage).regs = s.regs := rfl
@[simp] theorem copySramPage_addr (s : State) :
    (s.copySramPage).addr = s.addr := rfl
@[simp] theorem copySramPage_code (s : State) :
    (s.copySramPage).code = s.code := rfl
@[simp] theorem copySramPage_pending (s : State) :
    (s.copySramPage).pending = s.pending := rfl
@[simp] theorem copySramPage_latchLo (s : State) :
    (s.copySramPage).latchLo = s.latchLo := rfl
@[simp] theorem copySramPage_rbuf (s : State) :
    (s.copySramPage).rbuf = s.rbuf := rfl
@[simp] theorem copySramPage_status (s : State) :
    (s.copySramPage).status = s.status := rfl
@[simp] theorem copySramPage_h (s : State) :
    (s.copySramPage).h = s.h := rfl
@[simp] theorem copySramPage_line (s : State) :
    (s.copySramPage).line = s.line := rfl
@[simp] theorem copySramPage_fb (s : State) :
    (s.copySramPage).fb = s.fb := rfl
@[simp] theorem copySramPage_mem (s : State) :
    (s.copySramPage).mem = s.mem.copyIn 0x8000 s.config.sramSize s.sram (ramPage s.ramCtl * s.config.sramSize) := rfl
@[simp] theorem copySramPage_ramCtl (s : State) :
    (s.copySramPage).ramCtl = s.ramCtl := rfl
@[simp] theorem copySramPage_slot1Page (s : State) :
    (s.copySramPage).slot1Page = s.slot1Page := rfl
@[simp] theorem copySramPage_slot2Page (s : State) :
    (s.copySramPage).slot2Page = s.slot2Page := rfl
@[simp] theorem copySramPage_sram (s : State) :
    (s.copySramPage).sram = s.sram := rfl
@[simp] theorem copySramPage_config (s : State) :
    (s.copySramPage).config = s.config := rfl
@[simp] theorem copySramPage_running (s : State) :
    (s.copySramPage).running = s.running := rfl
@[simp] theorem copySramPage_fault (s : State) :
    (s.copySramPage).fault = s.fault := rfl
@[simp] theorem copySramPage_input (s : State) :
    (s.copySramPage).input = s.input := rfl
@[simp] theorem copySramPage_reply (s : State) :
    (s.copySramPage).reply = s.reply := rfl
@[simp] theorem copySramPage_draws (s : State) :
    (s.copySramPage).draws = s.draws := rfl

@[simp] theorem vblankEvent_vram (s : State) :
    (s.vblankEvent).vram = s.vram := rfl
@[simp] theorem vblankEvent_cram (s : State) :
    (s.vblankEvent).cram = s.cram := rfl
@[simp] theorem vblankEvent_regs (s : State) :
    (s.vblankEvent).regs = s.regs := rfl
@[simp] theorem vblankEvent_addr (s : State) :
    (s.vblankEvent).addr = s.addr := rfl
@[simp] theorem vblankEvent_code (s : State) :
    (s.vblankEvent).code = s.code := rfl
@[simp] theorem vblankEvent_pending (s : State) :
    (s.vblankEvent).pending = s.pending := rfl
@[simp] theorem vblankEvent_latchLo (s : State) :
    (s.vblankEvent).latchLo = s.latchLo := rfl
@[simp] theorem vblankEvent_rbuf (s : State) :
    (s.vblankEvent).rbuf = s.rbuf := rfl
@[simp] theorem vblankEvent_status (s : State) :
    (s.vblankEvent).status = setF s.status := rfl
@[simp] theorem vblankEvent_h (s : State) :
    (s.vblankEvent).h = s.h := rfl
@[simp] theorem vblankEvent_line (s : State) :
    (s.vblankEvent).line = s.line := rfl
@[simp] theorem vblankEvent_fb (s : State) :
    (s.vblankEvent).fb = s.fb := rfl
@[simp] theorem vblankEvent_mem (s : State) :
    (s.vblankEvent).mem = s.mem := rfl
@[simp] theorem vblankEvent_ramCtl (s : State) :
    (s.vblankEvent).ramCtl = s.ramCtl := rfl
@[simp] theorem vblankEvent_slot1Page (s : State) :
    (s.vblankEvent).slot1Page = s.slot1Page := rfl
@[simp] theorem vblankEvent_slot2Page (s : State) :
    (s.vblankEvent).slot2Page = s.slot2Page := rfl
@[simp] theorem vblankEvent_sram (s : State) :
    (s.vblankEvent).sram = s.sram := rfl
@[simp] theorem vblankEvent_config (s : State) :
    (s.vblankEvent).config = s.config := rfl
@[simp] theorem vblankEvent_running (s : State) :
    (s.vblankEvent).running = s.running := rfl
@[simp] theorem vblankEvent_fault (s : State) :
    (s.vblankEvent).fault = s.fault := rfl
@[simp] theorem vblankEvent_input (s : State) :
    (s.vblankEvent).input = s.input := rfl
@[simp] theorem vblankEvent_reply (s : State) :
    (s.vblankEvent).reply = s.reply := rfl
@[simp] theorem vblankEvent_draws (s : State) :
    (s.vblankEvent).draws = s.draws := rfl

@[simp] theorem advanceLine_vram (s : State) :
    (s.advanceLine).vram = s.vram := rfl
@[simp] theorem advanceLine_cram (s : State) :
    (s.advanceLine).cram = s.cram := rfl
@[simp] theorem advanceLine_regs (s : State) :
    (s.advanceLine).regs = s.regs := rfl
@[simp] theorem advanceLine_addr (s : State) :
    (s.advanceLine).addr = s.addr := rfl
@[simp] theorem advanceLine_code (s : State) :
    (s.advanceLine).code = s.code := rfl
@[simp] theorem advanceLine_pending (s : State) :
    (s.advanceLine).pending = s.pending := rfl
@[simp] theorem advanceLine_latchLo (s : State) :
    (s.advanceLine).latchLo = s.latchLo := rfl
@[simp] theorem advanceLine_rbuf (s : State) :
    (s.advanceLine).rbuf = s.rbuf := rfl
@[simp] theorem advanceLine_status (s : State) :
    (s.advanceLine).status = s.status := rfl
@[simp] theorem advanceLine_h (s : State) :
    (s.advanceLine).h = s.h := rfl
@[simp] theorem advanceLine_line (s : State) :
    (s.advanceLine).line = (s.line + 1) % s.config.linesPerFrame := rfl
@[simp] theorem advanceLine_fb (s : State) :
    (s.advanceLine).fb = s.fb := rfl
@[simp] theorem advanceLine_mem (s : State) :
    (s.advanceLine).mem = s.mem := rfl
@[simp] theorem advanceLine_ramCtl (s : State) :
    (s.advanceLine).ramCtl = s.ramCtl := rfl
@[simp] theorem advanceLine_slot1Page (s : State) :
    (s.advanceLine).slot1Page = s.slot1Page := rfl
@[simp] theorem advanceLine_slot2Page (s : State) :
    (s.advanceLine).slot2Page = s.slot2Page := rfl
@[simp] theorem advanceLine_sram (s : State) :
    (s.advanceLine).sram = s.sram := rfl
@[simp] theorem advanceLine_config (s : State) :
    (s.advanceLine).config = s.config := rfl
@[simp] theorem advanceLine_running (s : State) :
    (s.advanceLine).running = s.running := rfl
@[simp] theorem advanceLine_fault (s : State) :
    (s.advanceLine).fault = s.fault := rfl
@[simp] theorem advanceLine_input (s : State) :
    (s.advanceLine).input = s.input := rfl
@[simp] theorem advanceLine_reply (s : State) :
    (s.advanceLine).reply = s.reply := rfl
@[simp] theorem advanceLine_draws (s : State) :
    (s.advanceLine).draws = s.draws := rfl

@[simp] theorem keepRemainder_vram (s : State) :
    (s.keepRemainder).vram = s.vram := rfl
@[simp] theorem keepRemainder_cram (s : State) :
    (s.keepRemainder).cram = s.cram := rfl
@[simp] theorem keepRemainder_regs (s : State) :
    (s.keepRemainder).regs = s.regs := rfl
@[simp] theorem keepRemainder_addr (s : State) :
    (s.keepRemainder).addr = s.addr := rfl
@[simp] theorem keepRemainder_code (s : State) :
    (s.keepRemainder).code = s.code := rfl
@[simp] theorem keepRemainder_pending (s : State) :
    (s.keepRemainder).pending = s.pending := rfl
@[simp] theorem keepRemainder_latchLo (s : State) :
    (s.keepRemainder).latchLo = s.latchLo := rfl
@[simp] theorem keepRemainder_rbuf (s : State) :
    (s.keepRemainder).rbuf = s.rbuf := rfl
@[simp] theorem keepRemainder_status (s : State) :
    (s.keepRemainder).status = s.status := rfl
@[simp] theorem keepRemainder_h (s : State) :
    (s.keepRemainder).h = s.h % 684 := rfl
@[simp] theorem keepRemainder_line (s : State) :
    (s.keepRemainder).line = s.line := rfl
@[simp] theorem keepRemainder_fb (s : State) :
    (s.keepRemainder).fb = s.fb := rfl
@[simp] theorem keepRemainder_mem (s : State) :
    (s.keepRemainder).mem = s.mem := rfl
@[simp] theorem keepRemainder_ramCtl (s : State) :
    (s.keepRemainder).ramCtl = s.ramCtl := rfl
@[simp] theorem keepRemainder_slot1Page (s : State) :
    (s.keepRemainder).slot1Page = s.slot1Page := rfl
@[simp] theorem keepRemainder_slot2Page (s : State) :
    (s.keepRemainder).slot2Page = s.slot2Page := rfl
@[simp] theorem keepRemainder_sram (s : State) :
    (s.keepRemainder).sram = s.sram := rfl
@[simp] theorem keepRemainder_config (s : State) :
    (s.keepRemainder).config = s.config := rfl
@[simp] theorem keepRemainder_running (s : State) :
    (s.keepRemainder).running = s.running := rfl
@[simp] theorem keepRemainder_fault (s : State) :
    (s.keepRemainder).fault = s.fault := rfl
@[simp] theorem keepRemainder_input (s : State) :
    (s.keepRemainder).input = s.input := rfl
@[simp] theorem keepRemainder_reply (s : State) :
    (s.keepRemainder).reply = s.reply := rfl
@[simp] theorem keepRemainder_draws (s : State) :
    (s.keepRemainder).draws = s.draws := rfl

@[simp] theorem addUnits_vram (s : State) (n : Nat) :
    (s.addUnits n).vram = s.vram := rfl
@[simp] theorem addUnits_cram (s : State) (n : Nat) :
    (s.addUnits n).cram = s.cram := rfl
@[simp] theorem addUnits_regs (s : State) (n : Nat) :
    (s.addUnits n).regs = s.regs := rfl
@[simp] theorem addUnits_addr (s : State) (n : Nat) :
    (s.addUnits n).addr = s.addr := rfl
@[simp] theorem addUnits_code (s : State) (n : Nat) :
    (s.addUnits n).code = s.code := rfl
@[simp] theorem addUnits_pending (s : State) (n : Nat) :
    (s.addUnits n).pending = s.pending := rfl
@[simp] theorem addUnits_latchLo (s : State) (n : Nat) :
    (s.addUnits n).latchLo = s.latchLo := rfl
@[simp] theorem addUnits_rbuf (s : State) (n : Nat) :
    (s.addUnits n).rbuf = s.rbuf := rfl
@[simp] theorem addUnits_status (s : State) (n : Nat) :
    (s.addUnits n).status = s.status := rfl
@[simp] theorem addUnits_h (s : State) (n : Nat) :
    (s.addUnits n).h = s.h + n := rfl
@[simp] theorem addUnits_line (s : State) (n : Nat) :
    (s.addUnits n).line = s.line := rfl
@[simp] theorem addUnits_fb (s : State) (n : Nat) :
    (s.addUnits n).fb = s.fb := rfl
@[simp] theorem addUnits_mem (s : State) (n : Nat) :
    (s.addUnits n).mem = s.mem := rfl
@[simp] theorem addUnits_ramCtl (s : State) (n : Nat) :
    (s.addUnits n).ramCtl = s.ramCtl := rfl
@[simp] theorem addUnits_slot1Page (s : State) (n : Nat) :
    (s.addUnits n).slot1Page = s.slot1Page := rfl
@[simp] theorem addUnits_slot2Page (s : State) (n : Nat) :
    (s.addUnits n).slot2Page = s.slot2Page := rfl
@[simp] theorem addUnits_sram (s : State) (n : Nat) :
    (s.addUnits n).sram = s.sram := rfl
@[simp] theorem addUnits_config (s : State) (n : Nat) :
    (s.addUnits n).config = s.config := rfl
@[simp] theorem addUnits_running (s : State) (n : Nat) :
    (s.addUnits n).running = s.running := rfl
@[simp] theorem addUnits_fault (s : State) (n : Nat) :
    (s.addUnits n).fault = s.fault := rfl
@[simp] theorem addUnits_input (s : State) (n : Nat) :
    (s.addUnits n).input = s.input := rfl
@[simp] theorem addUnits_reply (s : State) (n : Nat) :
    (s.addUnits n).reply = s.reply := rfl
@[simp] theorem addUnits_draws (s : State) (n : Nat) :
    (s.addUnits n).draws = s.draws := rfl

@[simp] theorem setRunning_vram (s : State) :
    (s.setRunning).vram = s.vram := rfl
@[simp] theorem setRunning_cram (s : State) :
    (s.setRunning).cram = s.cram := rfl
@[simp] theorem setRunning_regs (s : State) :
    (s.setRunning).regs = s.regs := rfl
@[simp] theorem setRunning_addr (s : State) :
    (s.setRunning).addr = s.addr := rfl
@[simp] theorem setRunning_code (s : State) :
    (s.setRunning).code = s.code := rfl
@[simp] theorem setRunning_pending (s : State) :
    (s.setRunning).pending = s.pending := rfl
@[simp] theorem setRunning_latchLo (s : State) :
    (s.setRunning).latchLo = s.latchLo := rfl
@[simp] theorem setRunning_rbuf (s : State) :
    (s.setRunning).rbuf = s.rbuf := rfl
@[simp] theorem setRunning_status (s : State) :
    (s.setRunning).status = s.status := rfl
@[simp] theorem setRunning_h (s : State) :
    (s.setRunning).h = s.h := rfl
@[simp] theorem setRunning_line (s : State) :
    (s.setRunning).line = s.line := rfl
@[simp] theorem setRunning_fb (s : State) :
    (s.setRunning).fb = s.fb := rfl
@[simp] theorem setRunning_mem (s : State) :
    (s.setRunning).mem = s.mem := rfl
@[simp] theorem setRunning_ramCtl (s : State) :
    (s.setRunning).ramCtl = s.ramCtl := rfl
@[simp] theorem setRunning_slot1Page (s : State) :
    (s.setRunning).slot1Page = s.slot1Page := rfl
@[simp] theorem setRunning_slot2Page (s : State) :
    (s.setRunning).slot2Page = s.slot2Page := rfl
@[simp] theorem setRunning_sram (s : State) :
    (s.setRunning).sram = s.sram := rfl
@[simp] theorem setRunning_config (s : State) :
    (s.setRunning).config = s.config := rfl
@[simp] theorem setRunning_running (s : State) :
    (s.setRunning).running = true := rfl
@[simp] theorem setRunning_fault (s : State) :
    (s.setRunning).fault = none := rfl
@[simp] theorem setRunning_input (s : State) :
    (s.setRunning).input = s.input := rfl
@[simp] theorem setRunning_reply (s : State) :
    (s.setRunning).reply = s.reply := rfl
@[simp] theorem setRunning_draws (s : State) :
    (s.setRunning).draws = s.draws := rfl

end Sys2Proof.Laws
end

