-- ==== Sys2Proof/Laws/Ops.lean ====
section
/-! SUPPORT. One law per shared operation: what it answers, what it stores, what it leaves. -/

namespace Sys2Proof.Laws

open Machine

/-! ## The running check -/

@[simp] theorem whileRunning_of_running {s : State} (h : s.running = true) (o : Outcome) :
    s.whileRunning o = o := by simp [State.whileRunning, h]

theorem whileRunning_of_idle {s : State} (h : s.running = false) (o : Outcome) :
    s.whileRunning o = .refused .notRunning := by simp [State.whileRunning, h]

/-- An operation that answers a next state was run while the block was running. -/
theorem whileRunning_next {s t : State} {o : Outcome} (h : s.whileRunning o = .next t) :
    s.running = true ∧ o = .next t := by
  unfold State.whileRunning at h
  split at h
  · exact ⟨‹_›, h⟩
  · cases h

/-- A fault of a guarded operation is a fault of the operation itself. -/
theorem whileRunning_fault {s : State} {o : Outcome} {f : Fault}
    (h : s.whileRunning o = .fault f) : s.running = true ∧ o = .fault f := by
  unfold State.whileRunning at h
  split at h
  · exact ⟨‹_›, h⟩
  · cases h

/-! ## Operands -/

theorem and_3FFF_toNat (a : Word16) : (a &&& 0x3FFF#16).toNat = a.toNat % 16384 := by
  rw [BitVec.toNat_and]; exact Nat.and_two_pow_sub_one_eq_mod a.toNat 14

theorem vIdx_eq (a : Word16) : vIdx a = a.toNat % 16384 := and_3FFF_toNat a

theorem cIdx_eq (a : Word16) : cIdx a = a.toNat % 32 := by
  unfold cIdx; rw [BitVec.toNat_and]; exact Nat.and_two_pow_sub_one_eq_mod a.toNat 5

theorem vIdx_lt (a : Word16) : vIdx a < 16384 := by rw [vIdx_eq]; omega

theorem cIdx_lt (a : Word16) : cIdx a < 32 := by rw [cIdx_eq]; omega

/-- The quirk's test, on numbers (R530). -/
theorem lowTen_zero_iff (a : Word16) : a.extractLsb' 0 10 = 0#10 ↔ a.toNat % 1024 = 0 := by
  rw [← BitVec.toNat_inj, BitVec.extractLsb'_toNat]
  simp

theorem ramPage_le (c : Byte) : ramPage c ≤ 1 := by
  unfold ramPage; cases c.getLsbD 2 <;> simp

/-! ## CPU memory -/

theorem romOnlyRamWrite_frame (s : State) (a : Word16) (v : Byte) :
    { s.romOnlyRamWrite a v with mem := s.mem } = s := by
  unfold State.romOnlyRamWrite; split <;> rfl

/-- What RomOnlyRamWrite leaves in MEM (R413). -/
theorem romOnlyRamWrite_read (s : State) (a : Word16) (v : Byte) (b : Nat) :
    (s.romOnlyRamWrite a v).mem.read b =
      if b = a.toNat ∨ b = (if a.toNat < 0xE000 then a.toNat + 0x2000 else a.toNat - 0x2000)
      then v else s.mem.read b := by
  have e : a < 0xE000#16 ↔ a.toNat < 0xE000 := by rw [BitVec.lt_def]; rfl
  unfold State.romOnlyRamWrite
  by_cases h : a.toNat < 0xE000
  · rw [if_pos (e.mpr h), if_pos h, store_mem, store_mem, read_write, read_write]
    grind
  · rw [if_neg (fun x => h (e.mp x)), if_neg h, store_mem, store_mem, read_write, read_write]
    grind

theorem segaRamWrite_frame (s : State) (a : Word16) (v : Byte) :
    { s.segaRamWrite a v with mem := s.mem } = s := by
  unfold State.segaRamWrite; split <;> (try split) <;> rfl

/-- What SegaRamWrite leaves in MEM (R414). -/
theorem segaRamWrite_read (s : State) (a : Word16) (v : Byte) (b : Nat) :
    (s.segaRamWrite a v).mem.read b =
      if b = a.toNat ∨ (a.toNat ≤ 0xDFFB ∧ b = a.toNat + 0x2000) ∨
        (0xE000 ≤ a.toNat ∧ b = a.toNat - 0x2000)
      then v else s.mem.read b := by
  have e1 : a ≤ 0xDFFB#16 ↔ a.toNat ≤ 0xDFFB := by rw [BitVec.le_def]; rfl
  have e2 : a ≤ 0xDFFF#16 ↔ a.toNat ≤ 0xDFFF := by rw [BitVec.le_def]; rfl
  unfold State.segaRamWrite
  by_cases h1 : a.toNat ≤ 0xDFFB
  · rw [if_pos (e1.mpr h1), store_mem, store_mem, read_write, read_write]
    have : ¬ 0xE000 ≤ a.toNat := by omega
    grind
  · rw [if_neg (fun x => h1 (e1.mp x))]
    by_cases h2 : a.toNat ≤ 0xDFFF
    · rw [if_pos (e2.mpr h2), store_mem, read_write]
      have : ¬ 0xE000 ≤ a.toNat := by omega
      grind
    · rw [if_neg (fun x => h2 (e2.mp x)), store_mem, store_mem, read_write, read_write]
      have : 0xE000 ≤ a.toNat := by omega
      grind

theorem slot2RamWrite_frame (s : State) (a : Word16) (v : Byte) :
    { s.slot2RamWrite a v with mem := s.mem, sram := s.sram } = s := by
  unfold State.slot2RamWrite; split <;> rfl

theorem slot2RamWrite_mem (s : State) (a : Word16) (v : Byte) :
    (s.slot2RamWrite a v).mem = s.mem.write a.toNat v := by
  unfold State.slot2RamWrite; split <;> rfl

theorem slot2RamWrite_sram (s : State) (a : Word16) (v : Byte) :
    (s.slot2RamWrite a v).sram =
      if a.toNat - 0x8000 < s.config.sramSize then
        s.sram.write (ramPage s.ramCtl * s.config.sramSize + (a.toNat - 0x8000)) v
      else s.sram := by
  unfold State.slot2RamWrite; split <;> rfl

/-! ## Bank copies -/

/-- The one next state of a ROM page copy, and when it is answered (R430). -/
theorem copyRomPage_next {s t : State} {p : Byte} {base : Nat}
    (h : s.copyRomPage p base = .next t) :
    pageInImage s.config (pageOf s.config p) = true ∧
      t = { s with mem := s.mem.blit base (romPage s.config.rom (pageOf s.config p)) } := by
  unfold State.copyRomPage at h
  split at h
  · exact ⟨‹_›, by cases h; rfl⟩
  · cases h

theorem copyRomPage_of_pageInImage {s : State} {p : Byte} (base : Nat)
    (h : pageInImage s.config (pageOf s.config p) = true) :
    s.copyRomPage p base =
      .next { s with mem := s.mem.blit base (romPage s.config.rom (pageOf s.config p)) } := by
  unfold State.copyRomPage; rw [if_pos h]

/-- Under a loadable SegaBanked configuration every page index selects a page of the image (R401, R801). -/
theorem pageInImage_of_checks {c : Configuration} (hk : c.mapperKind = .segaBanked)
    (hb : bankCheck c = true) (hl : lengthCheck c = true) (p : Byte) :
    pageInImage c (pageOf c p) = true := by
  simp only [bankCheck, lengthCheck, hk, bankCountOk, Bool.and_eq_true, decide_eq_true_eq] at hb hl
  have hp : pageOf c p < c.bankCount := Nat.mod_lt _ (by omega)
  simp only [pageInImage, Bool.and_eq_true, decide_eq_true_eq]
  refine ⟨by omega, ?_⟩
  rw [hl]
  exact Nat.mul_le_mul_right _ hp

theorem romPage_length {c : Configuration} {q : Nat} (h : pageInImage c q = true) :
    (romPage c.rom q).length = 0x4000 := by
  simp only [pageInImage, Bool.and_eq_true, decide_eq_true_eq] at h
  simp only [romPage, List.length_take, List.length_drop]
  omega

theorem romPage_getElem? (rom : List Byte) (q i : Nat) (hi : i < 0x4000) :
    (romPage rom q)[i]? = rom[q * 0x4000 + i]? := by
  simp only [romPage, List.getElem?_take, List.getElem?_drop, hi, if_true]

/-- What a page of the image blitted into a window reads (R430). -/
theorem read_blit_romPage {c : Configuration} {q : Nat} (h : pageInImage c q = true) (m : Memory)
    (base b : Nat) :
    (m.blit base (romPage c.rom q)).read b =
      if base ≤ b ∧ b < base + 0x4000 then (c.rom[q * 0x4000 + (b - base)]?).getD 0#8
      else m.read b := by
  rw [read_blit, romPage_length h]
  split
  · rw [romPage_getElem? _ _ _ (by omega)]
  · rfl

/-! ## No mapper operation reads or writes a VDP register -/

theorem store_setReg (s : State) (n : BitVec 4) (x : Byte) (a : Nat) (v : Byte) :
    (s.setReg n x).store a v = (s.store a v).setReg n x := rfl

theorem romOnlyRamWrite_setReg (s : State) (n : BitVec 4) (x : Byte) (a : Word16) (v : Byte) :
    (s.setReg n x).romOnlyRamWrite a v = (s.romOnlyRamWrite a v).setReg n x := by
  unfold State.romOnlyRamWrite
  rw [store_setReg, store_setReg, store_setReg]
  exact (apply_ite (fun u : State => u.setReg n x) _ _ _).symm

theorem segaRamWrite_setReg (s : State) (n : BitVec 4) (x : Byte) (a : Word16) (v : Byte) :
    (s.setReg n x).segaRamWrite a v = (s.segaRamWrite a v).setReg n x := by
  unfold State.segaRamWrite
  rw [store_setReg, store_setReg, store_setReg, apply_ite (fun u : State => u.setReg n x),
    apply_ite (fun u : State => u.setReg n x)]

theorem slot2RamWrite_setReg (s : State) (n : BitVec 4) (x : Byte) (a : Word16) (v : Byte) :
    (s.setReg n x).slot2RamWrite a v = (s.slot2RamWrite a v).setReg n x := by
  unfold State.slot2RamWrite
  rw [apply_ite (fun u : State => u.setReg n x)]
  rfl

theorem copySramPage_setReg (s : State) (n : BitVec 4) (x : Byte) :
    (s.setReg n x).copySramPage = s.copySramPage.setReg n x := rfl

theorem copyRomPage_setReg {s t : State} {p : Byte} {base : Nat} (n : BitVec 4) (x : Byte)
    (h : s.copyRomPage p base = .next t) :
    (s.setReg n x).copyRomPage p base = .next (t.setReg n x) := by
  obtain ⟨i, rfl⟩ := copyRomPage_next h
  exact copyRomPage_of_pageInImage base (s := s.setReg n x) i

/-! ## Data port and commands -/

theorem storeData_frame (s : State) (v : Byte) :
    { s.storeData v with vram := s.vram, cram := s.cram } = s := by
  unfold State.storeData; split <;> rfl

theorem storeData_vram (s : State) (v : Byte) :
    (s.storeData v).vram = if s.code = 3#2 then s.vram else s.vram.write (vIdx s.addr) v := by
  unfold State.storeData; split <;> rfl

theorem storeData_cram (s : State) (v : Byte) :
    (s.storeData v).cram = if s.code = 3#2 then s.cram.write (cIdx s.addr) v else s.cram := by
  unfold State.storeData; split <;> rfl

/-- A command word's effect, code by code (R510 to R514). -/
theorem execCommand_cases (s : State) (c : BitVec 2) (a : BitVec 14) :
    (c = 0#2 ∧ s.execCommand c a = (s.loadCommand 0#2 a).prime) ∨
    (c = 1#2 ∧ s.execCommand c a = s.loadCommand 1#2 a) ∨
    (c = 2#2 ∧ s.execCommand c a = (s.loadCommand 2#2 a).setReg (regNumber a) (regValue a)) ∨
    (c = 3#2 ∧ s.execCommand c a = s.loadCommand 3#2 a) := by
  have h : c = 0#2 ∨ c = 1#2 ∨ c = 2#2 ∨ c = 3#2 := by revert c; decide
  rcases h with rfl | rfl | rfl | rfl
  · exact .inl ⟨rfl, rfl⟩
  · exact .inr (.inl ⟨rfl, rfl⟩)
  · exact .inr (.inr (.inl ⟨rfl, rfl⟩))
  · exact .inr (.inr (.inr ⟨rfl, rfl⟩))

/-- A command word leaves everything but `addr`, `code`, `rbuf` and `regs`. -/
theorem execCommand_frame (s : State) (c : BitVec 2) (a : BitVec 14) :
    { s.execCommand c a with addr := s.addr, code := s.code, rbuf := s.rbuf, regs := s.regs } = s := by
  rcases execCommand_cases s c a with ⟨_, h⟩ | ⟨_, h⟩ | ⟨_, h⟩ | ⟨_, h⟩ <;> rw [h] <;> rfl

theorem reg_setReg (s : State) (n : BitVec 4) (v : Byte) (m : Fin 16) :
    (s.setReg n v).reg m = if m.val = n.toNat then v else s.reg m := by
  simp only [State.reg, setReg_regs, Vector.getElem_set]
  grind

/-! ## Rendering -/

theorem renderLine_frame (s : State) (line : Nat) : { s.renderLine line with fb := s.fb } = s := by
  unfold State.renderLine; split <;> rfl

theorem pixelBytes_length (ps : List Rgb) : (pixelBytes ps).length = 3 * ps.length := by
  induction ps with
  | nil => rfl
  | cons p ps ih =>
    have : pixelBytes (p :: ps) = [p.r, p.g, p.b] ++ pixelBytes ps := rfl
    rw [this, List.length_append, ih]
    simp only [List.length_cons, List.length_nil]
    omega

/-- The k-th byte of the i-th pixel of a row. -/
theorem pixelBytes_getElem? (ps : List Rgb) (i k : Nat) (hk : k < 3) :
    (pixelBytes ps)[3 * i + k]? =
      (ps[i]?).map (fun p => if k = 0 then p.r else if k = 1 then p.g else p.b) := by
  induction ps generalizing i with
  | nil => simp [pixelBytes]
  | cons p ps ih =>
    have e : pixelBytes (p :: ps) = [p.r, p.g, p.b] ++ pixelBytes ps := rfl
    rw [e]
    cases i with
    | zero =>
      have : k = 0 ∨ k = 1 ∨ k = 2 := by omega
      rcases this with rfl | rfl | rfl <;> rfl
    | succ i =>
      rw [List.getElem?_append_right (by simp; omega)]
      have : 3 * (i + 1) + k - [p.r, p.g, p.b].length = 3 * i + k := by simp; omega
      rw [this, ih]
      simp

/-- What a rendered line leaves in the framebuffer: its own row's pixels, every other row as it was
(R605, R619). -/
theorem renderLine_read (s : State) (line x y k : Nat) (hx : x < 256) (hk : k < 3) :
    (s.renderLine line).fb.read (fbOffset x y + k) =
      if line < s.activeHeight ∧ y = line then
        (if k = 0 then (s.linePixel line x).r
          else if k = 1 then (s.linePixel line x).g else (s.linePixel line x).b)
      else s.fb.read (fbOffset x y + k) := by
  unfold State.renderLine
  by_cases h : s.activeHeight ≤ line
  · rw [if_pos h, if_neg (by omega)]
  · rw [if_neg h]
    simp only
    rw [read_blit, pixelBytes_length, List.length_map, List.length_range]
    by_cases hy : y = line
    · subst hy
      rw [if_pos (by unfold fbOffset; omega), if_pos ⟨by omega, rfl⟩]
      have : fbOffset x y + k - fbOffset 0 y = 3 * x + k := by unfold fbOffset; omega
      rw [this, pixelBytes_getElem? _ _ _ hk]
      simp [hx]
    · rw [if_neg (by unfold fbOffset; omega), if_neg (by omega)]

/-! ## TICK -/

/-- A crossing leaves everything but `line`, `fb` and `status`. -/
theorem crossLine_frame (s : State) :
    { s.crossLine.1 with line := s.line, fb := s.fb, status := s.status } = s := by
  unfold State.crossLine
  have h := renderLine_frame s.advanceLine s.line
  generalize s.advanceLine.renderLine s.line = t at h ⊢
  have e : { t with line := s.line, fb := s.fb, status := s.status } = s := by
    have := congrArg (fun u : State => { u with line := s.line, fb := s.fb, status := s.status }) h
    exact this
  simp only
  split
  · exact e
  · exact e

/-- Any number of crossings leaves everything but `line`, `fb` and `status`. -/
theorem crossLines_frame (k : Nat) (s : State) (b : Bool) :
    { (State.crossLines k s b).1 with line := s.line, fb := s.fb, status := s.status } = s := by
  induction k generalizing s b with
  | zero => rfl
  | succ k ih =>
    have h := ih s.crossLine.1 (b || s.crossLine.2)
    have c := crossLine_frame s
    have := congrArg (fun u : State => { u with line := s.line, fb := s.fb, status := s.status }) h
    exact this.trans c

/-- No crossing reads h. -/
theorem crossLine_setH (s : State) (x : Nat) :
    ({ s with h := x } : State).crossLine = ({ s.crossLine.1 with h := x }, s.crossLine.2) := by
  have r : ({ s.advanceLine with h := x } : State).renderLine s.line =
      { s.advanceLine.renderLine s.line with h := x } := by
    unfold State.renderLine
    have a : ({ s.advanceLine with h := x } : State).activeHeight = s.advanceLine.activeHeight := rfl
    rw [a]
    split <;> rfl
  have e : ({ s with h := x } : State).crossLine =
      if (({ s.advanceLine with h := x } : State).renderLine s.line).line =
          (({ s.advanceLine with h := x } : State).renderLine s.line).activeHeight then
        ((({ s.advanceLine with h := x } : State).renderLine s.line).vblankEvent, true)
      else (({ s.advanceLine with h := x } : State).renderLine s.line, false) := rfl
  rw [e, r]
  have f : s.crossLine =
      if (s.advanceLine.renderLine s.line).line = (s.advanceLine.renderLine s.line).activeHeight then
        ((s.advanceLine.renderLine s.line).vblankEvent, true)
      else (s.advanceLine.renderLine s.line, false) := rfl
  rw [f]
  generalize s.advanceLine.renderLine s.line = t
  have g : ({ t with h := x } : State).activeHeight = t.activeHeight := rfl
  rw [g]
  split <;> rfl

theorem crossLines_setH (k : Nat) (s : State) (x : Nat) (b : Bool) :
    State.crossLines k { s with h := x } b =
      ({ (State.crossLines k s b).1 with h := x }, (State.crossLines k s b).2) := by
  induction k generalizing s b with
  | zero => rfl
  | succ k ih =>
    have e : ∀ u : State, State.crossLines (k + 1) u b =
      State.crossLines k u.crossLine.1 (b || u.crossLine.2) := fun _ => rfl
    rw [e, e, crossLine_setH, ih]

/-- The result so far is or-ed into the result of the crossings. -/
theorem crossLines_or (k : Nat) (s : State) (b : Bool) :
    State.crossLines k s b =
      ((State.crossLines k s false).1, b || (State.crossLines k s false).2) := by
  induction k generalizing s b with
  | zero => simp [State.crossLines]
  | succ k ih =>
    have e : ∀ c, State.crossLines (k + 1) s c =
      State.crossLines k s.crossLine.1 (c || s.crossLine.2) := fun _ => rfl
    rw [e, e, ih, ih s.crossLine.1 (false || s.crossLine.2)]
    simp [Bool.or_assoc]

/-- Crossings one after another are the crossings of the sum. -/
theorem crossLines_add (j k : Nat) (s : State) (b : Bool) :
    State.crossLines (j + k) s b =
      State.crossLines k (State.crossLines j s b).1 (State.crossLines j s b).2 := by
  induction j generalizing s b with
  | zero => simp [State.crossLines]
  | succ j ih =>
    have e : j + 1 + k = (j + k) + 1 := by omega
    rw [e]
    exact ih s.crossLine.1 (b || s.crossLine.2)

theorem crossLines_h (k : Nat) (s : State) (b : Bool) : (State.crossLines k s b).1.h = s.h := by
  have := congrArg State.h (crossLines_frame k s b)
  exact this

/-- The loop is R602's `while h ≥ 684`: with less than a line it does nothing. -/
theorem tickLoop_done {s : State} (h : s.h < 684) : s.tickLoop = (s, false) := by
  unfold State.tickLoop
  rw [Nat.div_eq_of_lt h]
  have e : (State.crossLines 0 s false).1.keepRemainder = { s with h := s.h % 684 } := rfl
  rw [e, Nat.mod_eq_of_lt h]
  rfl

/-- With a line or more it takes 684 units, crosses one line and goes on. -/
theorem tickLoop_more {s : State} {x : Nat} (h : s.h = x + 684) :
    s.tickLoop =
      (({ s with h := x } : State).crossLine.1.tickLoop.1,
        ({ s with h := x } : State).crossLine.2 ||
          ({ s with h := x } : State).crossLine.1.tickLoop.2) := by
  have hd : s.h / 684 = x / 684 + 1 := by omega
  have hm : s.h % 684 = x % 684 := by omega
  have p : s.crossLine.1.h = s.h := by
    have := congrArg State.h (crossLine_frame s)
    exact this
  have right : ∀ u : State, ({ u with h := x } : State).tickLoop =
      ({ (State.crossLines (x / 684) u false).1 with h := x % 684 },
        (State.crossLines (x / 684) u false).2) := by
    intro u
    have e : ({ u with h := x } : State).tickLoop =
        ((State.crossLines (x / 684) { u with h := x } false).1.keepRemainder,
          (State.crossLines (x / 684) { u with h := x } false).2) := rfl
    rw [e, crossLines_setH]
    rfl
  have left : s.tickLoop =
      ({ (State.crossLines (x / 684) s.crossLine.1 s.crossLine.2).1 with h := x % 684 },
        (State.crossLines (x / 684) s.crossLine.1 s.crossLine.2).2) := by
    have e : s.tickLoop =
        ({ (State.crossLines (s.h / 684) s false).1 with
            h := (State.crossLines (s.h / 684) s false).1.h % 684 },
          (State.crossLines (s.h / 684) s false).2) := rfl
    rw [e, crossLines_h, hd, hm]
    have f : State.crossLines (x / 684 + 1) s false =
        State.crossLines (x / 684) s.crossLine.1 (false || s.crossLine.2) := rfl
    rw [f, Bool.false_or]
  rw [crossLine_setH, left, crossLines_or, right]

end Sys2Proof.Laws
end

