-- ==== Sys2Proof/Laws/Exec.lean ====
section
/-! SUPPORT. What each meaning can answer: one inversion per constructor of Instr and one for the step, so
that a proof over all instructions cites these and unfolds no meaning. -/

namespace Sys2Proof.Laws

open Machine

/-- The one next state of a guarded operation that always answers. -/
theorem guarded_next {s t u : State} (h : s.whileRunning (.next u) = .next t) :
    s.running = true ∧ t = u := by
  obtain ⟨r, e⟩ := whileRunning_next h
  exact ⟨r, by injection e with e; exact e.symm⟩

/-! ## Memory transactions -/

theorem memRd_next {a : Word16} {s t : State} (h : exec (.memRd a) s = .next t) :
    s.running = true ∧ t = s.answer (.byte (s.mem.read a.toNat)) := guarded_next h

/-- MEM_WR: dropped, or a RAM write of one of the three kinds, each with its range. -/
theorem memWr_next {a : Word16} {v : Byte} {s t : State} (h : exec (.memWr a v) s = .next t) :
    s.running = true ∧
      (t = s ∨
        (s.config.mapperKind = .romOnly ∧ 0xC000 ≤ a.toNat ∧ t = s.romOnlyRamWrite a v) ∨
        (s.config.mapperKind = .segaBanked ∧ 0x8000 ≤ a.toNat ∧ a.toNat < 0xC000 ∧
          ramEnable s.ramCtl = true ∧ t = s.slot2RamWrite a v) ∨
        (s.config.mapperKind = .segaBanked ∧ 0xC000 ≤ a.toNat ∧ t = s.segaRamWrite a v)) := by
  obtain ⟨r, e⟩ := whileRunning_next h
  refine ⟨r, ?_⟩
  have e1 : a < 0xC000#16 ↔ a.toNat < 0xC000 := by rw [BitVec.lt_def]; rfl
  have e2 : a < 0x8000#16 ↔ a.toNat < 0x8000 := by rw [BitVec.lt_def]; rfl
  rcases hk : s.config.mapperKind with _ | _ <;> rw [hk] at e <;> dsimp only at e
  · by_cases c : a.toNat < 0xC000
    · rw [if_pos (e1.mpr c)] at e
      exact .inl (by injection e with e; exact e.symm)
    · rw [if_neg (fun x => c (e1.mp x))] at e
      exact .inr (.inl ⟨rfl, by omega, by injection e with e; exact e.symm⟩)
  · by_cases c : a.toNat < 0x8000
    · rw [if_pos (e2.mpr c)] at e
      exact .inl (by injection e with e; exact e.symm)
    · rw [if_neg (fun x => c (e2.mp x))] at e
      by_cases d : a.toNat < 0xC000
      · rw [if_pos (e1.mpr d)] at e
        cases hr : ramEnable s.ramCtl <;> rw [hr] at e
        · exact .inl (by injection e with e; exact e.symm)
        · exact .inr (.inr (.inl ⟨rfl, by omega, d, rfl, by injection e with e; exact e.symm⟩))
      · rw [if_neg (fun x => d (e1.mp x))] at e
        exact .inr (.inr (.inr ⟨rfl, by omega, by injection e with e; exact e.symm⟩))

/-- MEM_WR_FFFC: a RAM write, or slot 2 mapped to cartridge RAM, or to a ROM page. -/
theorem memWrFffc_next {v : Byte} {s t : State} (h : exec (.memWrFffc v) s = .next t) :
    s.running = true ∧
      ((s.config.mapperKind = .romOnly ∧ t = s.romOnlyRamWrite 0xFFFC#16 v) ∨
        (s.config.mapperKind = .segaBanked ∧ ramEnable v = true ∧
          t = State.copySramPage { s.store 0xFFFC v with ramCtl := v }) ∨
        (s.config.mapperKind = .segaBanked ∧ ramEnable v = false ∧
          pageInImage s.config (pageOf s.config s.slot2Page) = true ∧
          t = { s with
            mem := (s.mem.write 0xFFFC v).blit 0x8000
              (romPage s.config.rom (pageOf s.config s.slot2Page))
            ramCtl := v })) := by
  obtain ⟨r, e⟩ := whileRunning_next h
  refine ⟨r, ?_⟩
  rcases hk : s.config.mapperKind with _ | _ <;> rw [hk] at e <;> dsimp only at e
  · exact .inl ⟨rfl, by injection e with e; exact e.symm⟩
  · cases hr : ramEnable v
    · have e' : State.copyRomPage { s.store 0xFFFC v with ramCtl := v } s.slot2Page 0x8000 = .next t := by
        rw [State.remapSlot2, if_neg (by simp [hr])] at e; exact e
      obtain ⟨p, q⟩ := copyRomPage_next e'
      exact .inr (.inr ⟨rfl, rfl, p, q⟩)
    · have e' : (Host.Outcome.next (State.copySramPage { s.store 0xFFFC v with ramCtl := v }) : Outcome) =
          .next t := by rw [State.remapSlot2, if_pos (by exact hr)] at e; exact e
      exact .inr (.inl ⟨rfl, rfl, by injection e' with e'; exact e'.symm⟩)

theorem memWrFffd_next {v : Byte} {s t : State} (h : exec (.memWrFffd v) s = .next t) :
    s.running = true ∧
      ((s.config.mapperKind = .romOnly ∧ t = s.romOnlyRamWrite 0xFFFD#16 v) ∨
        (s.config.mapperKind = .segaBanked ∧ t = s.store 0xFFFD v)) := by
  obtain ⟨r, e⟩ := whileRunning_next h
  refine ⟨r, ?_⟩
  rcases hk : s.config.mapperKind with _ | _ <;> rw [hk] at e <;> dsimp only at e
  · exact .inl ⟨rfl, by injection e with e; exact e.symm⟩
  · exact .inr ⟨rfl, by injection e with e; exact e.symm⟩

/-- MEM_WR_FFFE: a RAM write, or slot 1 mapped to a ROM page. -/
theorem memWrFffe_next {v : Byte} {s t : State} (h : exec (.memWrFffe v) s = .next t) :
    s.running = true ∧
      ((s.config.mapperKind = .romOnly ∧ t = s.romOnlyRamWrite 0xFFFE#16 v) ∨
        (s.config.mapperKind = .segaBanked ∧ pageInImage s.config (pageOf s.config v) = true ∧
          t = { s with
            mem := (s.mem.write 0xFFFE v).blit 0x4000 (romPage s.config.rom (pageOf s.config v))
            slot1Page := v })) := by
  obtain ⟨r, e⟩ := whileRunning_next h
  refine ⟨r, ?_⟩
  rcases hk : s.config.mapperKind with _ | _ <;> rw [hk] at e <;> dsimp only at e
  · exact .inl ⟨rfl, by injection e with e; exact e.symm⟩
  · obtain ⟨p, q⟩ := copyRomPage_next e
    exact .inr ⟨rfl, p, q⟩

/-- MEM_WR_FFFF: a RAM write, or the page recorded, or slot 2 mapped to a ROM page. -/
theorem memWrFfff_next {v : Byte} {s t : State} (h : exec (.memWrFfff v) s = .next t) :
    s.running = true ∧
      ((s.config.mapperKind = .romOnly ∧ t = s.romOnlyRamWrite 0xFFFF#16 v) ∨
        (s.config.mapperKind = .segaBanked ∧ ramEnable s.ramCtl = true ∧
          t = { s.store 0xFFFF v with slot2Page := v }) ∨
        (s.config.mapperKind = .segaBanked ∧ ramEnable s.ramCtl = false ∧
          pageInImage s.config (pageOf s.config v) = true ∧
          t = { s with
            mem := (s.mem.write 0xFFFF v).blit 0x8000 (romPage s.config.rom (pageOf s.config v))
            slot2Page := v })) := by
  obtain ⟨r, e⟩ := whileRunning_next h
  refine ⟨r, ?_⟩
  rcases hk : s.config.mapperKind with _ | _ <;> rw [hk] at e <;> dsimp only at e
  · exact .inl ⟨rfl, by injection e with e; exact e.symm⟩
  · cases hr : ramEnable s.ramCtl
    · rw [if_neg (by simp [hr])] at e
      obtain ⟨p, q⟩ := copyRomPage_next e
      exact .inr (.inr ⟨rfl, rfl, p, q⟩)
    · rw [if_pos hr] at e
      exact .inr (.inl ⟨rfl, rfl, by injection e with e; exact e.symm⟩)

/-! The frame of the memory rows: only MEM, SRAM and the three mapper registers can change. The write helpers
are made variables first, so that no check unfolds their address arithmetic. -/

/-- The frame of a RAM write of either mapper, from the law that only MEM changes. -/
theorem mapper_frame_of_mem {s t : State} (h : { t with mem := s.mem } = s) :
    { t with
      mem := s.mem, sram := s.sram, ramCtl := s.ramCtl, slot1Page := s.slot1Page,
      slot2Page := s.slot2Page } = s :=
  congrArg (fun u : State => { u with
    sram := s.sram, ramCtl := s.ramCtl, slot1Page := s.slot1Page, slot2Page := s.slot2Page }) h

theorem mapper_frame_of_mem_sram {s t : State} (h : { t with mem := s.mem, sram := s.sram } = s) :
    { t with
      mem := s.mem, sram := s.sram, ramCtl := s.ramCtl, slot1Page := s.slot1Page,
      slot2Page := s.slot2Page } = s :=
  congrArg (fun u : State => { u with
    ramCtl := s.ramCtl, slot1Page := s.slot1Page, slot2Page := s.slot2Page }) h

theorem memWr_frame {a : Word16} {v : Byte} {s t : State} (h : exec (.memWr a v) s = .next t) :
    { t with
      mem := s.mem, sram := s.sram, ramCtl := s.ramCtl, slot1Page := s.slot1Page,
      slot2Page := s.slot2Page } = s := by
  have c := (memWr_next h).2
  clear h
  have f1 := romOnlyRamWrite_frame s a v
  have f2 := slot2RamWrite_frame s a v
  have f3 := segaRamWrite_frame s a v
  generalize s.romOnlyRamWrite a v = u1 at c f1
  generalize s.slot2RamWrite a v = u2 at c f2
  generalize s.segaRamWrite a v = u3 at c f3
  rcases c with h | h | h | h
  · rw [h]
  · rw [h.2.2]; exact mapper_frame_of_mem f1
  · rw [h.2.2.2.2]; exact mapper_frame_of_mem_sram f2
  · rw [h.2.2]; exact mapper_frame_of_mem f3

theorem memWrFffc_frame {v : Byte} {s t : State} (h : exec (.memWrFffc v) s = .next t) :
    { t with
      mem := s.mem, sram := s.sram, ramCtl := s.ramCtl, slot1Page := s.slot1Page,
      slot2Page := s.slot2Page } = s := by
  rcases (memWrFffc_next h).2 with ⟨_, rfl⟩ | ⟨_, _, rfl⟩ | ⟨_, _, _, rfl⟩
  · exact mapper_frame_of_mem (romOnlyRamWrite_frame s _ v)
  · rfl
  · rfl

theorem memWrFffd_frame {v : Byte} {s t : State} (h : exec (.memWrFffd v) s = .next t) :
    { t with
      mem := s.mem, sram := s.sram, ramCtl := s.ramCtl, slot1Page := s.slot1Page,
      slot2Page := s.slot2Page } = s := by
  rcases (memWrFffd_next h).2 with ⟨_, rfl⟩ | ⟨_, rfl⟩
  · exact mapper_frame_of_mem (romOnlyRamWrite_frame s _ v)
  · rfl

theorem memWrFffe_frame {v : Byte} {s t : State} (h : exec (.memWrFffe v) s = .next t) :
    { t with
      mem := s.mem, sram := s.sram, ramCtl := s.ramCtl, slot1Page := s.slot1Page,
      slot2Page := s.slot2Page } = s := by
  rcases (memWrFffe_next h).2 with ⟨_, rfl⟩ | ⟨_, _, rfl⟩
  · exact mapper_frame_of_mem (romOnlyRamWrite_frame s _ v)
  · rfl

theorem memWrFfff_frame {v : Byte} {s t : State} (h : exec (.memWrFfff v) s = .next t) :
    { t with
      mem := s.mem, sram := s.sram, ramCtl := s.ramCtl, slot1Page := s.slot1Page,
      slot2Page := s.slot2Page } = s := by
  rcases (memWrFfff_next h).2 with ⟨_, rfl⟩ | ⟨_, _, rfl⟩ | ⟨_, _, _, rfl⟩
  · exact mapper_frame_of_mem (romOnlyRamWrite_frame s _ v)
  · rfl
  · rfl

/-! ## Port transactions -/

theorem ioRdVcount_next {p : Byte} {s t : State} (h : exec (.ioRdVcount p) s = .next t) :
    s.running = true ∧ t = s.answer (.byte (vcountMap s.config s.lineMode s.line)) := guarded_next h

theorem ioRdHcount_next {p : Byte} {s t : State} (h : exec (.ioRdHcount p) s = .next t) :
    s.running = true ∧ t = s.answer (.byte (hcountFn s.config s.h)) := guarded_next h

theorem ioRdData_next {p : Byte} {s t : State} (h : exec (.ioRdData p) s = .next t) :
    s.running = true ∧ t = s.clearPending.prime.answer (.byte s.rbuf) := guarded_next h

theorem ioRdStatus_next {p : Byte} {s t : State} (h : exec (.ioRdStatus p) s = .next t) :
    s.running = true ∧
      t = ((s.setStatus (clearFlags s.status)).clearPending).answer (.byte s.status) := guarded_next h

theorem ioRdIgnLo_next {p : Byte} {s t : State} (h : exec (.ioRdIgnLo p) s = .next t) :
    s.running = true ∧ t = s.answerDrawn := guarded_next h

theorem ioRdIgnHi_next {p : Byte} {s t : State} (h : exec (.ioRdIgnHi p) s = .next t) :
    s.running = true ∧ t = s.answerDrawn := guarded_next h

theorem ioWrCounter_next {p v : Byte} {s t : State} (h : exec (.ioWrCounter p v) s = .next t) :
    s.running = true ∧ t = s := guarded_next h

theorem ioWrData_next {p v : Byte} {s t : State} (h : exec (.ioWrData p v) s = .next t) :
    s.running = true ∧ t = State.advance { s.clearPending.storeData v with rbuf := v } :=
  guarded_next h

/-- A data-port write leaves everything but the two memories, the read buffer, `addr` and `pending`. -/
theorem ioWrData_frame {p v : Byte} {s t : State} (h : exec (.ioWrData p v) s = .next t) :
    { t with
      vram := s.vram, cram := s.cram, rbuf := s.rbuf, addr := s.addr, pending := s.pending } = s := by
  obtain ⟨_, rfl⟩ := ioWrData_next h
  have g := congrArg (fun u : State => { u with pending := s.pending, rbuf := s.rbuf, addr := s.addr })
    (storeData_frame s.clearPending v)
  exact g

theorem ioWrCtrl_next {p v : Byte} {s t : State} (h : exec (.ioWrCtrl p v) s = .next t) :
    s.running = true ∧
      ((s.pending = true ∧ t = s.clearPending.execCommand (cmdCode (commandWord v s.latchLo))
          (cmdAddr (commandWord v s.latchLo))) ∨
        (s.pending = false ∧ t = s.latchFirst v)) := by
  obtain ⟨r, e⟩ := whileRunning_next h
  refine ⟨r, ?_⟩
  cases hp : s.pending
  · rw [if_neg (by simp [hp])] at e
    exact .inr ⟨rfl, by injection e with e; exact e.symm⟩
  · rw [if_pos hp] at e
    exact .inl ⟨rfl, by injection e with e; exact e.symm⟩

theorem ioWrIgnLo_next {p v : Byte} {s t : State} (h : exec (.ioWrIgnLo p v) s = .next t) :
    s.running = true ∧ t = s := guarded_next h

theorem ioWrIgnHi_next {p v : Byte} {s t : State} (h : exec (.ioWrIgnHi p v) s = .next t) :
    s.running = true ∧ t = s := guarded_next h

/-! ## Command words -/

theorem cmdVramRead_next {a : BitVec 14} {s t : State} (h : exec (.cmdVramRead a) s = .next t) :
    s.running = true ∧ t = s.clearPending.execCommand 0#2 a := guarded_next h

theorem cmdVramWrite_next {a : BitVec 14} {s t : State} (h : exec (.cmdVramWrite a) s = .next t) :
    s.running = true ∧ t = s.clearPending.execCommand 1#2 a := guarded_next h

theorem cmdRegWrite_next {a : BitVec 14} {s t : State} (h : exec (.cmdRegWrite a) s = .next t) :
    s.running = true ∧ t = s.clearPending.execCommand 2#2 a := guarded_next h

theorem cmdCramWrite_next {a : BitVec 14} {s t : State} (h : exec (.cmdCramWrite a) s = .next t) :
    s.running = true ∧ t = s.clearPending.execCommand 3#2 a := guarded_next h

/-- The four command meanings in one: the code selects the effect. -/
theorem exec_decodeCommand (cmd : Word16) (s : State) :
    exec (decodeCommand cmd) s =
      s.whileRunning (.next (s.clearPending.execCommand (cmdCode cmd) (cmdAddr cmd))) := by
  have aux : ∀ c : BitVec 2, c ≠ 0#2 → c ≠ 1#2 → c ≠ 2#2 → c = 3#2 := by decide
  unfold decodeCommand
  split_ifs with h1 h2 h3
  · rw [h1]; rfl
  · rw [h2]; rfl
  · rw [h3]; rfl
  · rw [aux _ h1 h2 h3]; rfl

/-! ## Host operations -/

/-- TICK's loop leaves everything but `h`, `line`, `fb` and `status`. -/
theorem tickLoop_frame (s : State) :
    { s.tickLoop.1 with h := s.h, line := s.line, fb := s.fb, status := s.status } = s := by
  have f := crossLines_frame (s.h / 684) s false
  exact (congrArg (fun u : State => { u with h := s.h }) f)

/-- Crossings carry a reply along unread. -/
theorem crossLines_answer (k : Nat) (s : State) (r : Reply) (b : Bool) :
    State.crossLines k (s.answer r) b =
      ((State.crossLines k s b).1.answer r, (State.crossLines k s b).2) := by
  induction k generalizing s b with
  | zero => rfl
  | succ k ih =>
    have e : ∀ u : State, State.crossLines (k + 1) u b =
      State.crossLines k u.crossLine.1 (b || u.crossLine.2) := fun _ => rfl
    have c : (s.answer r).crossLine = (s.crossLine.1.answer r, s.crossLine.2) := by
      have p : (s.answer r).advanceLine.renderLine s.line =
          (s.advanceLine.renderLine s.line).answer r := by
        unfold State.renderLine
        have a : (s.answer r).advanceLine.activeHeight = s.advanceLine.activeHeight := rfl
        rw [a]
        split <;> rfl
      have f : ∀ u : State, u.crossLine =
          if (u.advanceLine.renderLine u.line).line =
              (u.advanceLine.renderLine u.line).activeHeight then
            ((u.advanceLine.renderLine u.line).vblankEvent, true)
          else (u.advanceLine.renderLine u.line, false) := fun _ => rfl
      have l : (s.answer r).line = s.line := rfl
      rw [f, f, l, p]
      generalize s.advanceLine.renderLine s.line = t
      have g : (t.answer r).activeHeight = t.activeHeight := rfl
      have g' : (t.answer r).line = t.line := rfl
      rw [g, g']
      split <;> rfl
    rw [e, e, c, ih]

/-- TICK in one equation: the crossings of the state as it stands, h reduced, the result handed back. -/
theorem exec_tick {s : State} (n : Nat) (h : s.running = true) :
    exec (.tick n) s = .next { (State.crossLines ((s.h + n) / 684) s false).1 with
      h := (s.h + n) % 684
      reply := .vblank (State.crossLines ((s.h + n) / 684) s false).2 } := by
  have d : exec (.tick n) s = execTick n s := rfl
  have w : s.addUnits n = { s with h := s.h + n } := rfl
  have e : (s.addUnits n).tickLoop =
      ({ (State.crossLines ((s.h + n) / 684) (s.addUnits n) false).1 with
          h := (State.crossLines ((s.h + n) / 684) (s.addUnits n) false).1.h % 684 },
        (State.crossLines ((s.h + n) / 684) (s.addUnits n) false).2) := rfl
  rw [d, execTick, whileRunning_of_running h, e, w, crossLines_setH]
  rfl

/-- A single crossing moves to the next line, and after the last line of the frame to line 0. -/
theorem crossLine_line (s : State) :
    s.crossLine.1.line = (s.line + 1) % s.config.linesPerFrame := by
  have r : (s.advanceLine.renderLine s.line).line = (s.line + 1) % s.config.linesPerFrame :=
    congrArg State.line (renderLine_frame s.advanceLine s.line)
  have e : s.crossLine =
      if (s.advanceLine.renderLine s.line).line = (s.advanceLine.renderLine s.line).activeHeight then
        ((s.advanceLine.renderLine s.line).vblankEvent, true)
      else (s.advanceLine.renderLine s.line, false) := rfl
  rw [e]
  split
  · exact r
  · exact r

/-- The line a crossing completes is rendered from the state before it. -/
theorem crossLine_fb (s : State) : s.crossLine.1.fb = (s.renderLine s.line).fb := by
  have r : (s.advanceLine.renderLine s.line).fb = (s.renderLine s.line).fb := by
    unfold State.renderLine
    have a : s.advanceLine.activeHeight = s.activeHeight := rfl
    rw [a]
    split <;> rfl
  have e : s.crossLine =
      if (s.advanceLine.renderLine s.line).line = (s.advanceLine.renderLine s.line).activeHeight then
        ((s.advanceLine.renderLine s.line).vblankEvent, true)
      else (s.advanceLine.renderLine s.line, false) := rfl
  rw [e]
  split
  · exact r
  · exact r

/-- The vblank event happens exactly when the line reached is the active height, and sets bit 7. -/
theorem crossLine_vblank (s : State) :
    s.crossLine.2 = decide ((s.line + 1) % s.config.linesPerFrame = s.activeHeight) ∧
      s.crossLine.1.status = if s.crossLine.2 then setF s.status else s.status := by
  have f := renderLine_frame s.advanceLine s.line
  have r : (s.advanceLine.renderLine s.line).line = (s.line + 1) % s.config.linesPerFrame :=
    congrArg State.line f
  have a : (s.advanceLine.renderLine s.line).activeHeight = s.activeHeight := by
    have g := congrArg State.activeHeight f
    exact g
  have st : (s.advanceLine.renderLine s.line).status = s.status := by
    have g := congrArg State.status f
    exact g
  have e : s.crossLine =
      if (s.advanceLine.renderLine s.line).line = (s.advanceLine.renderLine s.line).activeHeight then
        ((s.advanceLine.renderLine s.line).vblankEvent, true)
      else (s.advanceLine.renderLine s.line, false) := rfl
  rw [e, r, a]
  by_cases c : (s.line + 1) % s.config.linesPerFrame = s.activeHeight
  · rw [if_pos c]
    exact ⟨by simp [c], by rw [if_pos rfl]; exact congrArg setF st⟩
  · rw [if_neg c]
    exact ⟨by simp [c], by rw [if_neg (by simp)]; exact st⟩

theorem tick_next {n : Nat} {s t : State} (h : exec (.tick n) s = .next t) :
    s.running = true ∧
      t = (s.addUnits n).tickLoop.1.answer (.vblank (s.addUnits n).tickLoop.2) := guarded_next h

/-- TICK leaves everything but `h`, `line`, `fb`, `status` and the reply. -/
theorem tick_frame {n : Nat} {s t : State} (h : exec (.tick n) s = .next t) :
    { t with h := s.h, line := s.line, fb := s.fb, status := s.status, reply := s.reply } = s := by
  obtain ⟨_, rfl⟩ := tick_next h
  have g := congrArg (fun u : State => { u with h := s.h, reply := s.reply })
    (tickLoop_frame (s.addUnits n))
  exact g

theorem setSpriteOverflow_next {s t : State} (h : exec .setSpriteOverflow s = .next t) :
    s.running = true ∧ t = s.setStatus (setOvr s.status) := guarded_next h

theorem setSpriteCollision_next {s t : State} (h : exec .setSpriteCollision s = .next t) :
    s.running = true ∧ t = s.setStatus (setCol s.status) := guarded_next h

theorem readFb_next {s t : State} (h : exec .readFb s = .next t) :
    s.running = true ∧ t = s.answer (.frame s.lineMode s.frameBytes) := guarded_next h

/-- LOAD: accepted with every check passed, faulted and recorded, or left idle without the signature. -/
theorem load_next {c : Configuration} {s t : State} (h : exec (.load c) s = .next t) :
    (romValid c.rom = true ∧ bankCheck c = true ∧ lengthCheck c = true ∧ t = s.loaded c) ∨
      (∃ f, t = s.recordFault f) ∨ t = { s with running := false } := by
  have e : exec (.load c) s = execLoad c s := rfl
  rw [e, execLoad] at h
  split at h
  · split at h
    · split at h
      · exact .inl ⟨‹_›, ‹_›, ‹_›, by injection h with h; exact h.symm⟩
      · exact .inr (.inl ⟨_, by injection h with h; exact h.symm⟩)
    · exact .inr (.inl ⟨_, by injection h with h; exact h.symm⟩)
  · exact .inr (.inr (by injection h with h; exact h.symm))

/-! ## The step -/

/-- A run of one step more, where the first step answers a next state. -/
theorem run_next {M : Host.Core} {k : Nat} {s t : M.State} (h : M.step s = .next t) :
    M.run (k + 1) s = M.run k t := by simp only [Host.Core.run, h]

/-- A run of one step is the step. -/
theorem run_one {M : Host.Core} (s : M.State) : M.run 1 s = M.step s := by
  simp only [Host.Core.run]
  split <;> simp only [*]

/-- A bus transaction that is no second byte of a command is run as its own row. -/
theorem step_bus {s : State} {w : BusWord} {rest : List Request} (hi : s.input = .bus w :: rest)
    (h : (s.pending && isControlWrite w) = false) :
    step s = exec (decodeBus w) { s with input := rest } := by
  unfold step
  rw [hi]
  simp only [assemble, h]
  rfl

/-- A control-port write while `pending` = 1 completes the command word and runs it (R310, R500). -/
theorem step_second_byte {s : State} {w : BusWord} {rest : List Request}
    (hi : s.input = .bus w :: rest) (hp : s.pending = true) (hw : isControlWrite w = true) :
    step s = exec (decodeCommand (commandWord (busData w) s.latchLo)) { s with input := rest } := by
  unfold step
  rw [hi]
  simp only [assemble, hp, hw, Bool.and_self, if_true]
  rfl

/-- A next state of the step: nothing waiting and nothing done, or one waiting operation run. -/
theorem step_next {s t : State} (h : step s = .next t) :
    (s.input = [] ∧ t = s) ∨
      ∃ r rest i, s.input = r :: rest ∧ decode (assemble s.pending s.latchLo r) = .ok i ∧
        exec i { s with input := rest } = .next t := by
  unfold step at h
  split at h
  · rename_i e
    exact .inl ⟨e, by injection h with h; exact h.symm⟩
  · rename_i r rest e
    split at h
    · rename_i i d
      exact .inr ⟨r, rest, i, e, d, h⟩
    · cases h

end Sys2Proof.Laws
end

