-- ==== Sys2Proof/Laws/PerInstr.lean ====
section
/-! SUPPORT. The statement made per instruction, RowMatch: the encoding of a well-formed instruction has
the width of its row of the opcode table and matches the row's mask and match. -/

namespace Sys2Proof.Laws.RowMatch

open Machine

def Statement (i : Instr) : Prop :=
  i.WellFormed →
    (encode i).width = i.tableRow.width ∧ i.tableRow.matchesWord (encode i).word = true

/-- The mask test on a packed word is a test on its three fields. -/
theorem busWord_and (k k' k'' : BitVec 2) (a a' a'' : Word16) (d d' d'' : Byte)
    (hk : k &&& k' = k'') (ha : a &&& a' = a'') (hd : d &&& d' = d'') :
    busWord k a d &&& busWord k' a' d' = busWord k'' a'' d'' := by
  subst hk ha hd
  apply BitVec.eq_of_getLsbD_eq
  intro i hi
  simp only [busWord, BitVec.getLsbD_and, BitVec.getLsbD_append]
  split <;> (try split) <;> simp

theorem test_of_fields {w m p : BusWord} (h : w &&& m = p) : (w &&& m == p) = true := by
  simp [h]

/-- The port bits a row fixes, read from the port's class and parity. -/
theorem port_parity (p : Byte) (c : BitVec 2) (odd : Bool)
    (hc : portClass p = c) (ho : portOdd p = odd) :
    portAddr p &&& 0x00C1#16 = (c.setWidth 16 <<< 6) ||| (if odd then 1#16 else 0#16) := by
  subst hc ho
  revert p
  decide

theorem port_class (p : Byte) (c : BitVec 2) (hc : portClass p = c) :
    portAddr p &&& 0x00C0#16 = c.setWidth 16 <<< 6 := by
  subst hc
  revert p
  decide

theorem command_code (c : BitVec 2) (a : BitVec 14) :
    (mkCommand c a).setWidth 26 &&& 0x000C000#26 = c.setWidth 26 <<< 14 := by
  apply BitVec.eq_of_getLsbD_eq
  intro i hi
  simp only [BitVec.getLsbD_and, BitVec.getLsbD_setWidth, getLsbD_mkCommand, BitVec.getLsbD_shiftLeft]
  interval_cases i <;> simp

theorem memRd (a : Word16) : Statement (.memRd a) := by
  intro _
  exact ⟨rfl, test_of_fields (busWord_and _ 3#2 0#2 _ 0x0000#16 0x0000#16 _ 0x00#8 0x00#8 (by simp) (by simp) (by simp))⟩

theorem memWrFffc (v : Byte) : Statement (.memWrFffc v) := by
  intro _
  exact ⟨rfl, test_of_fields (busWord_and _ 3#2 1#2 _ 0xFFFF#16 0xFFFC#16 _ 0x00#8 0x00#8 (by simp) (by simp) (by simp))⟩

theorem memWrFffd (v : Byte) : Statement (.memWrFffd v) := by
  intro _
  exact ⟨rfl, test_of_fields (busWord_and _ 3#2 1#2 _ 0xFFFF#16 0xFFFD#16 _ 0x00#8 0x00#8 (by simp) (by simp) (by simp))⟩

theorem memWrFffe (v : Byte) : Statement (.memWrFffe v) := by
  intro _
  exact ⟨rfl, test_of_fields (busWord_and _ 3#2 1#2 _ 0xFFFF#16 0xFFFE#16 _ 0x00#8 0x00#8 (by simp) (by simp) (by simp))⟩

theorem memWrFfff (v : Byte) : Statement (.memWrFfff v) := by
  intro _
  exact ⟨rfl, test_of_fields (busWord_and _ 3#2 1#2 _ 0xFFFF#16 0xFFFF#16 _ 0x00#8 0x00#8 (by simp) (by simp) (by simp))⟩

theorem memWr (a : Word16) (v : Byte) : Statement (.memWr a v) := by
  intro _
  exact ⟨rfl, test_of_fields (busWord_and _ 3#2 1#2 _ 0x0000#16 0x0000#16 _ 0x00#8 0x00#8 (by simp) (by simp) (by simp))⟩

theorem ioRdVcount (p : Byte) : Statement (.ioRdVcount p) := by
  intro h
  simp only [Instr.WellFormed, Instr.wf, Bool.and_eq_true, beq_iff_eq, Bool.not_eq_true'] at h
  exact ⟨rfl, test_of_fields (busWord_and _ 3#2 2#2 _ 0x00C1#16 0x0040#16 _ 0x00#8 0x00#8 (by simp) (port_parity p 1#2 false h.1 h.2) (by simp))⟩

theorem ioRdHcount (p : Byte) : Statement (.ioRdHcount p) := by
  intro h
  simp only [Instr.WellFormed, Instr.wf, Bool.and_eq_true, beq_iff_eq] at h
  exact ⟨rfl, test_of_fields (busWord_and _ 3#2 2#2 _ 0x00C1#16 0x0041#16 _ 0x00#8 0x00#8 (by simp) (port_parity p 1#2 true h.1 h.2) (by simp))⟩

theorem ioRdData (p : Byte) : Statement (.ioRdData p) := by
  intro h
  simp only [Instr.WellFormed, Instr.wf, Bool.and_eq_true, beq_iff_eq, Bool.not_eq_true'] at h
  exact ⟨rfl, test_of_fields (busWord_and _ 3#2 2#2 _ 0x00C1#16 0x0080#16 _ 0x00#8 0x00#8 (by simp) (port_parity p 2#2 false h.1 h.2) (by simp))⟩

theorem ioRdStatus (p : Byte) : Statement (.ioRdStatus p) := by
  intro h
  simp only [Instr.WellFormed, Instr.wf, Bool.and_eq_true, beq_iff_eq] at h
  exact ⟨rfl, test_of_fields (busWord_and _ 3#2 2#2 _ 0x00C1#16 0x0081#16 _ 0x00#8 0x00#8 (by simp) (port_parity p 2#2 true h.1 h.2) (by simp))⟩

theorem ioRdIgnLo (p : Byte) : Statement (.ioRdIgnLo p) := by
  intro h
  simp only [Instr.WellFormed, Instr.wf, beq_iff_eq] at h
  exact ⟨rfl, test_of_fields (busWord_and _ 3#2 2#2 _ 0x00C0#16 0x0000#16 _ 0x00#8 0x00#8 (by simp) (port_class p 0#2 h) (by simp))⟩

theorem ioRdIgnHi (p : Byte) : Statement (.ioRdIgnHi p) := by
  intro h
  simp only [Instr.WellFormed, Instr.wf, beq_iff_eq] at h
  exact ⟨rfl, test_of_fields (busWord_and _ 3#2 2#2 _ 0x00C0#16 0x00C0#16 _ 0x00#8 0x00#8 (by simp) (port_class p 3#2 h) (by simp))⟩

theorem ioWrCounter (p : Byte) (v : Byte) : Statement (.ioWrCounter p v) := by
  intro h
  simp only [Instr.WellFormed, Instr.wf, beq_iff_eq] at h
  exact ⟨rfl, test_of_fields (busWord_and _ 3#2 3#2 _ 0x00C0#16 0x0040#16 _ 0x00#8 0x00#8 (by simp) (port_class p 1#2 h) (by simp))⟩

theorem ioWrData (p : Byte) (v : Byte) : Statement (.ioWrData p v) := by
  intro h
  simp only [Instr.WellFormed, Instr.wf, Bool.and_eq_true, beq_iff_eq, Bool.not_eq_true'] at h
  exact ⟨rfl, test_of_fields (busWord_and _ 3#2 3#2 _ 0x00C1#16 0x0080#16 _ 0x00#8 0x00#8 (by simp) (port_parity p 2#2 false h.1 h.2) (by simp))⟩

theorem ioWrCtrl (p : Byte) (v : Byte) : Statement (.ioWrCtrl p v) := by
  intro h
  simp only [Instr.WellFormed, Instr.wf, Bool.and_eq_true, beq_iff_eq] at h
  exact ⟨rfl, test_of_fields (busWord_and _ 3#2 3#2 _ 0x00C1#16 0x0081#16 _ 0x00#8 0x00#8 (by simp) (port_parity p 2#2 true h.1 h.2) (by simp))⟩

theorem ioWrIgnLo (p : Byte) (v : Byte) : Statement (.ioWrIgnLo p v) := by
  intro h
  simp only [Instr.WellFormed, Instr.wf, beq_iff_eq] at h
  exact ⟨rfl, test_of_fields (busWord_and _ 3#2 3#2 _ 0x00C0#16 0x0000#16 _ 0x00#8 0x00#8 (by simp) (port_class p 0#2 h) (by simp))⟩

theorem ioWrIgnHi (p : Byte) (v : Byte) : Statement (.ioWrIgnHi p v) := by
  intro h
  simp only [Instr.WellFormed, Instr.wf, beq_iff_eq] at h
  exact ⟨rfl, test_of_fields (busWord_and _ 3#2 3#2 _ 0x00C0#16 0x00C0#16 _ 0x00#8 0x00#8 (by simp) (port_class p 3#2 h) (by simp))⟩

theorem cmdVramRead (a : BitVec 14) : Statement (.cmdVramRead a) := by
  intro _
  exact ⟨rfl, test_of_fields (command_code 0#2 a)⟩

theorem cmdVramWrite (a : BitVec 14) : Statement (.cmdVramWrite a) := by
  intro _
  exact ⟨rfl, test_of_fields (command_code 1#2 a)⟩

theorem cmdRegWrite (a : BitVec 14) : Statement (.cmdRegWrite a) := by
  intro _
  exact ⟨rfl, test_of_fields (command_code 2#2 a)⟩

theorem cmdCramWrite (a : BitVec 14) : Statement (.cmdCramWrite a) := by
  intro _
  exact ⟨rfl, test_of_fields (command_code 3#2 a)⟩

theorem tick (n : Nat) : Statement (.tick n) := by
  exact fun _ => ⟨rfl, by simp [Instr.tableRow, TableRow.matchesWord, encode, Packet.word]⟩

theorem setSpriteOverflow : Statement (.setSpriteOverflow) := by
  exact fun _ => ⟨rfl, rfl⟩

theorem setSpriteCollision : Statement (.setSpriteCollision) := by
  exact fun _ => ⟨rfl, rfl⟩

theorem load (cfg : Configuration) : Statement (.load cfg) := by
  exact fun _ => ⟨rfl, by simp [Instr.tableRow, TableRow.matchesWord, encode, Packet.word]⟩

theorem readFb : Statement (.readFb) := by
  exact fun _ => ⟨rfl, rfl⟩

theorem hostReserved5 : Statement (.hostReserved5) := by
  exact fun _ => ⟨rfl, rfl⟩

theorem hostReserved67 (low : Bool) : Statement (.hostReserved67 low) := by
  cases low <;> exact fun _ => ⟨rfl, rfl⟩

end Sys2Proof.Laws.RowMatch
end

