-- ==== Sys2Proof/Laws/Safety.lean ====
section
/-! SUPPORT. The checks LOAD computes, and the plain terms of Safety.lean that the statements use for them. -/

namespace Sys2Proof.Laws

open Machine

theorem getElem?_of_take_eq {α : Type} {l bytes : List α} {n o : Nat} (h : (l.drop o).take n = bytes)
    {i : Nat} (hi : i < n) : l[o + i]? = bytes[i]? := by
  rw [← h, List.getElem?_take_of_lt hi, List.getElem?_drop]

/-- The signature test of an offset reads the eight bytes there (R335, R901). -/
theorem signatureAt_iff {rom : List Byte} {o : Nat} :
    signatureAt rom o = true ↔ HoldsSignature rom o := by
  rw [signatureAt, beq_iff_eq]
  constructor
  · intro h
    exact ⟨getElem?_of_take_eq h (i := 0) (by decide), getElem?_of_take_eq h (i := 1) (by decide),
      getElem?_of_take_eq h (i := 2) (by decide), getElem?_of_take_eq h (i := 3) (by decide),
      getElem?_of_take_eq h (i := 4) (by decide), getElem?_of_take_eq h (i := 5) (by decide),
      getElem?_of_take_eq h (i := 6) (by decide), getElem?_of_take_eq h (i := 7) (by decide)⟩
  · rintro ⟨h0, h1, h2, h3, h4, h5, h6, h7⟩
    apply List.ext_getElem?
    intro i
    by_cases hi : i < 8
    · rw [List.getElem?_take_of_lt hi, List.getElem?_drop]
      interval_cases i <;> assumption
    · have s : signature.length = 8 := rfl
      rw [List.getElem?_take_eq_none (by omega), List.getElem?_eq_none (by omega)]

/-- The test of R901 holds exactly of the powers of two. -/
theorem bankCountOk_iff {n : Nat} : bankCountOk n = true ↔ ∃ k, n = 2 ^ k := by
  rw [bankCountOk, Bool.and_eq_true, decide_eq_true_eq, decide_eq_true_eq]
  constructor
  · rintro ⟨h0, h⟩
    exact (Nat.and_sub_one_eq_zero_iff_isPowerOfTwo h0).mp h
  · rintro ⟨k, rfl⟩
    have h : 2 ^ k ≠ 0 := by positivity
    exact ⟨h, (Nat.and_sub_one_eq_zero_iff_isPowerOfTwo h).mpr ⟨k, rfl⟩⟩

/-- The two checks LOAD makes of a configuration are R401's well-formedness. -/
theorem checks_iff {c : Configuration} :
    (bankCheck c = true ∧ lengthCheck c = true) ↔ ConfigWellFormed c := by
  rw [bankCheck, lengthCheck, ConfigWellFormed]
  cases c.mapperKind
  · simp
  · simp [bankCountOk_iff]

/-- Under a well-formed SegaBanked configuration every page index selects a page of the image (R401, R801). -/
theorem pageInImage_of_wellFormed {c : Configuration} (hk : c.mapperKind = .segaBanked)
    (h : ConfigWellFormed c) (p : Byte) : pageInImage c (pageOf c p) = true :=
  pageInImage_of_checks hk (checks_iff.mpr h).1 (checks_iff.mpr h).2 p

end Sys2Proof.Laws
end

