-- ==== Sys2Proof/Tests/Slice0.lean ====
section
/-! SUPPORT. The model's own tests: the smoke test of WellFormed, words written out from the spec's
encodings, one-step vectors of 95_test_vectors, and a witness of the hypotheses of every statement. -/

namespace Sys2Proof.Tests

open Machine

/-! ## WellFormed: an ill-formed term for each check -/

theorem test_wf_memWr_control_addresses :
    Instr.wf (.memWr 0xFFFB#16 0#8) = true ∧ Instr.wf (.memWr 0xFFFC#16 0#8) = false ∧
    Instr.wf (.memWr 0xFFFF#16 0#8) = false := by decide

theorem test_wf_port_parity :
    Instr.wf (.ioRdVcount 0x7E#8) = true ∧ Instr.wf (.ioRdVcount 0x7F#8) = false ∧
    Instr.wf (.ioRdHcount 0x7F#8) = true ∧ Instr.wf (.ioRdHcount 0x7E#8) = false ∧
    Instr.wf (.ioRdData 0xBE#8) = true ∧ Instr.wf (.ioRdData 0xBF#8) = false ∧
    Instr.wf (.ioRdStatus 0xBF#8) = true ∧ Instr.wf (.ioRdStatus 0xBE#8) = false ∧
    Instr.wf (.ioWrData 0xBE#8 0#8) = true ∧ Instr.wf (.ioWrData 0xBF#8 0#8) = false ∧
    Instr.wf (.ioWrCtrl 0xBF#8 0#8) = true ∧ Instr.wf (.ioWrCtrl 0xBE#8 0#8) = false := by decide

theorem test_wf_port_class :
    Instr.wf (.ioRdVcount 0xBE#8) = false ∧ Instr.wf (.ioRdHcount 0xBF#8) = false ∧
    Instr.wf (.ioRdData 0x7E#8) = false ∧ Instr.wf (.ioRdStatus 0x7F#8) = false ∧
    Instr.wf (.ioRdIgnLo 0x3E#8) = true ∧ Instr.wf (.ioRdIgnLo 0xDC#8) = false ∧
    Instr.wf (.ioRdIgnHi 0xDC#8) = true ∧ Instr.wf (.ioRdIgnHi 0x3E#8) = false ∧
    Instr.wf (.ioWrCounter 0x7F#8 0#8) = true ∧ Instr.wf (.ioWrCounter 0xBF#8 0#8) = false ∧
    Instr.wf (.ioWrData 0x7E#8 0#8) = false ∧ Instr.wf (.ioWrCtrl 0x7F#8 0#8) = false ∧
    Instr.wf (.ioWrIgnLo 0x3E#8 0#8) = true ∧ Instr.wf (.ioWrIgnLo 0xFF#8 0#8) = false ∧
    Instr.wf (.ioWrIgnHi 0xFF#8 0#8) = true ∧ Instr.wf (.ioWrIgnHi 0x3E#8 0#8) = false := by decide

/-! ## Decoding: every constructor from a word written out (95_test_vectors section 2; R301, R312, R315) -/

theorem test_decode_memory_words :
    decodeBus 0x0412300#26 = .memRd 0x4123#16 ∧
    decodeBus 0x1FFFC08#26 = .memWrFffc 0x08#8 ∧
    decodeBus 0x1FFFD05#26 = .memWrFffd 0x05#8 ∧
    decodeBus 0x1FFFE03#26 = .memWrFffe 0x03#8 ∧
    decodeBus 0x1FFFF0B#26 = .memWrFfff 0x0B#8 ∧
    decodeBus 0x1DFFC08#26 = .memWr 0xDFFC#16 0x08#8 := by decide

theorem test_decode_port_reads :
    decodeBus 0x2007E00#26 = .ioRdVcount 0x7E#8 ∧
    decodeBus 0x2007F00#26 = .ioRdHcount 0x7F#8 ∧
    decodeBus 0x200BE00#26 = .ioRdData 0xBE#8 ∧
    decodeBus 0x200BF00#26 = .ioRdStatus 0xBF#8 ∧
    decodeBus 0x2003E00#26 = .ioRdIgnLo 0x3E#8 ∧
    decodeBus 0x200DC00#26 = .ioRdIgnHi 0xDC#8 := by decide

theorem test_decode_port_writes :
    decodeBus 0x3007F9F#26 = .ioWrCounter 0x7F#8 0x9F#8 ∧
    decodeBus 0x300BE12#26 = .ioWrData 0xBE#8 0x12#8 ∧
    decodeBus 0x300BF40#26 = .ioWrCtrl 0xBF#8 0x40#8 ∧
    decodeBus 0x312BF40#26 = .ioWrCtrl 0xBF#8 0x40#8 ∧
    decodeBus 0x3003E55#26 = .ioWrIgnLo 0x3E#8 0x55#8 ∧
    decodeBus 0x300FF00#26 = .ioWrIgnHi 0xFF#8 0x00#8 := by decide

theorem test_decode_command_words :
    decodeCommand 0x1234#16 = .cmdVramRead 0x1234#14 ∧
    decodeCommand 0x7C34#16 = .cmdVramWrite 0x3C34#14 ∧
    decodeCommand 0x8140#16 = .cmdRegWrite 0x0140#14 ∧
    decodeCommand 0xBF07#16 = .cmdRegWrite 0x3F07#14 ∧
    decodeCommand 0xC025#16 = .cmdCramWrite 0x0025#14 ∧
    regNumber 0x3F07#14 = 0xF#4 ∧ regValue 0x3F07#14 = 0x07#8 := by decide

theorem test_decode_host_operations :
    decodeHost 0#3 (.units 684) = .ok (.tick 684) ∧
    decodeHost 1#3 .nothing = .ok .setSpriteOverflow ∧
    decodeHost 2#3 .nothing = .ok .setSpriteCollision ∧
    decodeHost 3#3 (.config Configuration.blank) = .ok (.load Configuration.blank) ∧
    decodeHost 4#3 .nothing = .ok .readFb ∧
    decodeHost 5#3 .nothing = .ok .hostReserved5 ∧
    decodeHost 6#3 .nothing = .ok (.hostReserved67 false) ∧
    decodeHost 7#3 .nothing = .ok (.hostReserved67 true) := by
  refine ⟨rfl, rfl, rfl, rfl, rfl, rfl, rfl, rfl⟩

theorem test_decode_host_argument_mismatch :
    decodeHost 0#3 .nothing = .error .argumentMismatch ∧
    decodeHost 1#3 (.units 0) = .error .argumentMismatch ∧
    decodeHost 3#3 .nothing = .error .argumentMismatch := by
  refine ⟨rfl, rfl, rfl⟩

/-- A word with bits above its format is no word of the table. -/
theorem test_table_word_widths :
    decodeTableWord 32 0x4000000 = none ∧ decodeTableWord 16 0x10000 = none ∧
    decodeTableWord 8 8 = none ∧
    decodeTableWord 32 0x300BF40 = some (.ioWrCtrl 0xBF#8 0x40#8) := by decide

/-! ## Small states -/

/-- A part of the next state an outcome answers. -/
def after {α : Type} (o : Outcome) (f : State → α) : Option α :=
  match o with
  | .next t => some (f t)
  | _ => none

/-- The refusal an outcome answers. -/
def refusal (o : Outcome) : Option Refusal :=
  match o with
  | .refused r => some r
  | _ => none

/-- Running under RomOnly with no image. -/
def onState : State := { State.reset with running := true }

/-- An image of two pages, zero but for byte 0x123 of page 1. -/
def twoPages : List Byte :=
  List.replicate 0x4123 0#8 ++ [0x07#8] ++ List.replicate 0x3EDC 0#8

/-- SegaBanked with the two pages. -/
def segaCfg : Configuration :=
  { Configuration.blank with mapperKind := .segaBanked, bankCount := 2, rom := twoPages }

/-- Running under SegaBanked. -/
def segaState : State := { onState with config := segaCfg }

/-- The same with cartridge RAM mapped into slot 2. -/
def segaRamState : State := { segaState with ramCtl := 0x08#8 }

/-- Running with BLANK_RGB = (1, 2, 3), as CFG0 has it. -/
def blankRgbState : State :=
  { onState with config := { Configuration.blank with blankRgb := ⟨1#8, 2#8, 3#8⟩ } }

/-! ## Memory and mapper -/

theorem test_memRd_returns_mem :
    after (exec (.memRd 0x0400#16) { onState with mem := [(0x0400, 0x42#8)] }) State.reply =
      some (.byte 0x42#8) := by decide

/-- E3, first row. -/
theorem test_memWr_mirrors :
    after (exec (.memWr 0xC000#16 0x5A#8) segaState)
      (fun t => (t.mem.read 0xC000, t.mem.read 0xE000)) = some (0x5A#8, 0x5A#8) := by decide

/-- E3, fifth row (C4). -/
theorem test_memWr_dffc_is_not_mirrored :
    after (exec (.memWr 0xDFFC#16 0x08#8) segaState)
      (fun t => (t.mem.read 0xDFFC, t.mem.read 0xFFFC, t.ramCtl)) =
      some (0x08#8, 0x00#8, 0x00#8) := by decide

/-- M9 and M10: cartridge RAM is mapped in, the other half keeps what it held. -/
theorem test_fffc_maps_cartridge_ram :
    after (exec (.memWrFffc 0x08#8)
        { segaState with sram := [(0x0001, 0xAA#8)], mem := [(0x8001, 2#8), (0xA000, 2#8)] })
      (fun t => (t.mem.read 0x8001, t.mem.read 0xA000, t.mem.read 0xFFFC, t.ramCtl)) =
      some (0xAA#8, 0x02#8, 0x08#8, 0x08#8) := by decide

/-- M16. -/
theorem test_fffd_has_no_bank_effect :
    after (exec (.memWrFffd 0x05#8) segaState)
      (fun t => (t.mem.read 0xFFFD, t.mem.read 0x0400, t.slot1Page)) =
      some (0x05#8, 0x00#8, 0x01#8) := by decide

/-- M18: under RomOnly the control byte is plain RAM with a mirror. -/
theorem test_fffe_under_romOnly :
    after (exec (.memWrFffe 0x07#8) onState)
      (fun t => (t.mem.read 0xDFFE, t.mem.read 0xFFFE, t.slot1Page)) =
      some (0x07#8, 0x07#8, 0x01#8) := by decide

/-- M15: while slot 2 is RAM-backed the write only records the page. -/
theorem test_ffff_while_ram_backed :
    after (exec (.memWrFfff 0x05#8) segaRamState)
      (fun t => (t.mem.read 0x8000, t.slot2Page)) = some (0x00#8, 0x05#8) := by decide

/-! ## Ports -/

/-- D5: both ports return the configured value of line 5. -/
theorem test_vcount_of_line_5 :
    after (exec (.ioRdVcount 0x40#8)
        { onState with
          line := 5
          config := { Configuration.blank with vcount := ⟨[0, 1, 2, 3, 4, 0x85], [], [], [], [], []⟩ } })
      State.reply = some (.byte 0x85#8) := by decide

/-- D6 with a table of three values. -/
theorem test_hcount_of_h :
    after (exec (.ioRdHcount 0x41#8)
        { onState with h := 2, config := { Configuration.blank with hcount := [0, 0, 0x33] } })
      State.reply = some (.byte 0x33#8) := by decide

/-- V12: the buffered byte is returned, and the refill reads VRAM even in code 3. -/
theorem test_data_read_is_buffered :
    after (exec (.ioRdData 0xBE#8)
        { onState with
          rbuf := 0x5A#8, addr := 0x1235#16, vram := [(0x1235, 0x77#8)], code := 3#2, pending := true })
      (fun t => (t.reply, t.rbuf, t.addr, t.pending)) =
      some (.byte 0x5A#8, 0x77#8, 0x1236#16, false) := by decide

/-- V15. -/
theorem test_status_read_clears :
    after (exec (.ioRdStatus 0xBF#8) { onState with status := 0xA0#8, pending := true })
      (fun t => (t.reply, t.status, t.pending)) = some (.byte 0xA0#8, 0x00#8, false) := by decide

/-- D2: the state of the spec is unchanged, one byte is drawn. -/
theorem test_ignored_reads_draw :
    after (exec (.ioRdIgnLo 0x3E#8) { onState with pending := true })
      (fun t => (t.pending, t.draws)) = some (true, 1) ∧
    after (exec (.ioRdIgnHi 0xDC#8) { onState with pending := true })
      (fun t => (t.pending, t.draws)) = some (true, 1) := by decide

/-- D1 and D3. -/
theorem test_ignored_writes :
    after (exec (.ioWrIgnLo 0x3E#8 0x55#8) { onState with pending := true }) id =
      some { onState with pending := true } ∧
    after (exec (.ioWrIgnHi 0xFF#8 0x55#8) onState) id = some onState ∧
    after (exec (.ioWrCounter 0x7F#8 0x9F#8) onState) id = some onState := by decide

/-- V6. -/
theorem test_data_write_vram :
    after (exec (.ioWrData 0xBE#8 0x12#8) { onState with code := 1#2, addr := 0x3801#16 })
      (fun t => (t.vram, t.rbuf, t.addr)) =
      some ([(0x3801, 0x12#8)], 0x12#8, 0x3802#16) := by decide

/-- V7: CRAM at `addr` mod 32, VRAM unchanged. -/
theorem test_data_write_cram :
    after (exec (.ioWrData 0xBE#8 0x3F#8) { onState with code := 3#2, addr := 0x0025#16 })
      (fun t => (t.cram, t.vram, t.addr)) = some ([(5, 0x3F#8)], [], 0x0026#16) := by decide

/-- V1. -/
theorem test_first_control_byte :
    after (exec (.ioWrCtrl 0xBF#8 0x34#8) onState)
      (fun t => (t.pending, t.latchLo, t.addr, t.code)) =
      some (true, 0x34#8, 0x0000#16, 0#2) := by decide

/-- V2. -/
theorem test_second_control_byte :
    after (exec (.ioWrCtrl 0xBF#8 0x7C#8) { onState with pending := true, latchLo := 0x34#8 })
      (fun t => (t.pending, t.code, t.addr)) = some (false, 1#2, 0x3C34#16) := by decide

/-! ## Commands -/

/-- V3. -/
theorem test_vram_read_command :
    after (exec (.cmdVramRead 0x1234#14) { onState with vram := [(0x1234, 0x5A#8)] })
      (fun t => (t.code, t.rbuf, t.addr)) = some (0#2, 0x5A#8, 0x1235#16) := by decide

/-- E5, third row: the prime at 0x3C00 sends the address to 0xC000. -/
theorem test_vram_read_command_wraps :
    after (exec (.cmdVramRead 0x3C00#14) onState) State.addr = some 0xC000#16 := by decide

theorem test_vram_write_command :
    after (exec (.cmdVramWrite 0x3C00#14) onState) (fun t => (t.code, t.addr)) =
      some (1#2, 0x3C00#16) := by decide

/-- V4 and V5. -/
theorem test_reg_write_command :
    after (exec (.cmdRegWrite 0x0140#14) onState) (fun t => (t.reg 1, t.code, t.addr)) =
      some (0x40#8, 2#2, 0x0140#16) ∧
    after (exec (.cmdRegWrite 0x3F07#14) onState) (fun t => (t.reg 15, t.reg 1, t.addr)) =
      some (0x07#8, 0x00#8, 0x3F07#16) := by decide

theorem test_cram_write_command :
    after (exec (.cmdCramWrite 0x0025#14) onState) (fun t => (t.code, t.addr, t.cram)) =
      some (3#2, 0x0025#16, []) := by decide

/-- The Inc table of section 4. -/
theorem test_inc_table :
    inc 0x3C00#16 = 0xC000#16 ∧ inc 0x3C01#16 = 0x3C02#16 ∧ inc 0x3FFF#16 = 0x4000#16 ∧
    inc 0x4000#16 = 0xC000#16 ∧ inc 0x03FF#16 = 0x0400#16 ∧ inc 0x0400#16 = 0xC000#16 ∧
    inc 0x0000#16 = 0xC000#16 ∧ inc 0xC000#16 = 0xC000#16 := by decide

/-! ## TICK, hooks, renderer -/

/-- T2. -/
theorem test_tick_below_a_line :
    after (exec (.tick 683) onState) (fun t => (t.h, t.line, t.fb, t.reply)) =
      some (683, 0, [], .vblank false) := by decide

/-- The 192nd crossing of T5: the vblank event (R602, R604). The display is off and BLANK_RGB is 0. -/
theorem test_tick_vblank :
    after (exec (.tick 1) { onState with h := 683, line := 191 })
      (fun t => (t.h, t.line, t.status, t.reply)) =
      some (0, 192, 0x80#8, .vblank true) := by decide

/-- V16. -/
theorem test_sprite_hooks :
    after (exec .setSpriteOverflow onState) State.status = some 0x40#8 ∧
    after (exec .setSpriteCollision { onState with status := 0x40#8 }) State.status =
      some 0x60#8 := by decide

/-- The line mode table of section 5. -/
theorem test_line_mode_table :
    lineModeOf 0x00#8 0x00#8 .pal = .lines192 ∧ lineModeOf 0x06#8 0x10#8 .ntsc = .lines224 ∧
    lineModeOf 0x06#8 0x08#8 .pal = .lines240 ∧ lineModeOf 0x06#8 0x08#8 .ntsc = .lines192 ∧
    lineModeOf 0x06#8 0x18#8 .pal = .lines192 ∧ lineModeOf 0x02#8 0x10#8 .pal = .lines192 ∧
    lineModeOf 0x04#8 0x10#8 .pal = .lines192 := by decide

/-- The colour table of section 6. -/
theorem test_colour_table :
    cramColour 0x3F#8 = ⟨0xFF#8, 0xFF#8, 0xFF#8⟩ ∧ cramColour 0x01#8 = ⟨0x55#8, 0x00#8, 0x00#8⟩ ∧
    cramColour 0x06#8 = ⟨0xAA#8, 0x55#8, 0x00#8⟩ ∧ cramColour 0x30#8 = ⟨0x00#8, 0x00#8, 0xFF#8⟩ ∧
    cramColour 0x2D#8 = ⟨0x55#8, 0xFF#8, 0xAA#8⟩ ∧ cramColour 0xC0#8 = ⟨0, 0, 0⟩ := by decide

/-- The pattern row of section 6, plain and flipped. -/
theorem test_pattern_row :
    (List.range 8).map (colourIndex 0x0F#8 0x33#8 0x55#8 0x00#8) = [0, 4, 2, 6, 1, 5, 3, 7] ∧
    (List.range 8).map (fun fx => colourIndex 0x0F#8 0x33#8 0x55#8 0x00#8 (patternColumn 0x0200#16 fx)) =
      [7, 3, 5, 1, 6, 2, 4, 0] ∧
    patternRow 0x0400#16 0 = 7 * 4 := by decide

/-- The scroll and base rows of section 6. -/
theorem test_scroll_and_base :
    (onState.setReg 8#4 8#8).bgX 100 0 = 248 ∧ (onState.setReg 8#4 8#8).bgX 100 8 = 0 ∧
    ((onState.setReg 0#4 0x40#8).setReg 8#4 8#8).hScroll 5 = 0 ∧
    ((onState.setReg 0#4 0x40#8).setReg 8#4 8#8).hScroll 16 = 8 ∧
    (onState.setReg 9#4 0xFF#8).bgY 10 0 = 41 ∧ (onState.setReg 9#4 0xE0#8).bgY 0 0 = 0 ∧
    ((onState.setReg 0#4 0x80#8).setReg 9#4 0x10#8).vScroll 200 = 0 ∧
    ((onState.setReg 0#4 0x80#8).setReg 9#4 0x10#8).vScroll 191 = 0x10 ∧
    nameTableBase 0xFF#8 .lines192 = 0x3800 ∧ nameTableBase 0xFF#8 .lines224 = 0x3700 ∧
    nameTableBase 0x01#8 .lines192 = 0 := by decide

/-- The full pixel of section 6. -/
theorem test_full_pixel :
    ({ (onState.setReg 1#4 0x40#8).setReg 2#4 0xFF#8 with
        vram := [(0xB8, 0x20#8), (0xBA, 0x20#8), (0xBB, 0x20#8), (0x3842, 0x05#8), (0x3843, 0x0E#8)]
        cram := [(29, 0x2D#8)] } : State).bgPixel 9 13 = ⟨0x55#8, 0xFF#8, 0xAA#8⟩ := by decide

/-- R620 and R207: the active rows only. -/
theorem test_readFb :
    after (exec .readFb { onState with fb := [(fbOffset 255 191 + 2, 3#8), (fbOffset 0 192, 1#8)] })
      State.reply = some (.frame .lines192 [(147455, 3#8)]) := by decide +kernel

/-- T3 from T2: row 0 is BLANK_RGB, line 0 is complete. -/
theorem test_tick_paints_a_blank_row :
    after (exec (.tick 1) { blankRgbState with h := 683 })
      (fun t => (t.h, t.line, t.fb.read (fbOffset 0 0), t.fb.read (fbOffset 1 0 + 2), t.reply)) =
      some (0, 1, 1#8, 3#8, .vblank false) := by decide +kernel

/-- The two pages have 32KB, so page 1 lies inside them. -/
theorem twoPages_page : pageInImage segaCfg 1 = true := by
  have h : twoPages.length = 0x8000 := by
    rw [twoPages, List.length_append, List.length_append, List.length_replicate,
      List.length_replicate]
    rfl
  have e : segaCfg.rom.length = 0x8000 := h
  unfold pageInImage
  rw [e]
  decide

/-- Byte 0x123 of page 1. -/
theorem twoPages_byte : twoPages[0x4123]? = some 0x07#8 := by
  rw [twoPages, List.append_assoc, List.getElem?_append_right (by rw [List.length_replicate]),
    List.length_replicate]
  rfl

/-- What a copy of page 1 leaves at offset 0x123 of a window. -/
theorem twoPages_read (m : Memory) (base : Nat) :
    (m.blit base (romPage twoPages 1)).read (base + 0x123) = 0x07#8 := by
  have r := Laws.read_blit_romPage twoPages_page m base (base + 0x123)
  have s : base + 0x123 - base = 0x123 := by omega
  rw [if_pos (by omega), s] at r
  exact r.trans (congrArg (fun o => o.getD 0#8) twoPages_byte)

/-- Slot 1 or 2 mapped to page 1 of the two pages. -/
theorem twoPages_copy (s : State) (p : Byte) (base : Nat) (hc : s.config = segaCfg)
    (hp : pageOf segaCfg p = 1) :
    after (s.copyRomPage p base) (fun t => (t.mem.read (base + 0x123), t.slot1Page, t.slot2Page, t.ramCtl)) =
      some (0x07#8, s.slot1Page, s.slot2Page, s.ramCtl) := by
  have h : pageInImage s.config (pageOf s.config p) = true := by rw [hc, hp]; exact twoPages_page
  rw [Laws.copyRomPage_of_pageInImage base h, hc, hp, after]
  have r := twoPages_read s.mem base
  have e : segaCfg.rom = twoPages := rfl
  rw [e]
  dsimp only
  rw [r]

/-- E4 with two pages: page 3 mod 2 = 1, index 1 * 0x4000 + 0x123. -/
theorem test_fffe_selects_a_page :
    after (execMemWrFffe 0x03#8 segaState)
      (fun t => (t.mem.read (0x4000 + 0x123), t.slot1Page, t.slot2Page, t.ramCtl)) =
      some (0x07#8, 0x03#8, 0x02#8, 0x00#8) := by
  have k : segaState.config.mapperKind = .segaBanked := rfl
  rw [execMemWrFffe, Laws.whileRunning_of_running rfl, k]
  exact twoPages_copy { segaState.store 0xFFFE 3#8 with slot1Page := 3#8 } 3#8 0x4000 rfl (by decide)

/-- M6 with two pages: page 0x0B mod 2 = 1 in slot 2. -/
theorem test_ffff_selects_a_page :
    after (execMemWrFfff 0x0B#8 segaState)
      (fun t => (t.mem.read (0x8000 + 0x123), t.slot1Page, t.slot2Page, t.ramCtl)) =
      some (0x07#8, 0x01#8, 0x0B#8, 0x00#8) := by
  have k : segaState.config.mapperKind = .segaBanked := rfl
  rw [execMemWrFfff, Laws.whileRunning_of_running rfl, k]
  dsimp only
  rw [if_neg (by decide)]
  exact twoPages_copy { segaState.store 0xFFFF 0x0B#8 with slot2Page := 0x0B#8 } 0x0B#8 0x8000 rfl
    (by decide)

/-- M17 with slot 2 selecting page 1: bit 3 of 0xF3 is 0, so slot 2 holds the ROM page. -/
theorem test_fffc_maps_rom :
    after (execMemWrFffc 0xF3#8 { segaRamState with slot2Page := 1#8 })
      (fun t => (t.mem.read (0x8000 + 0x123), t.slot1Page, t.slot2Page, t.ramCtl)) =
      some (0x07#8, 0x01#8, 0x01#8, 0xF3#8) := by
  have k : ({ segaRamState with slot2Page := 1#8 } : State).config.mapperKind = .segaBanked := rfl
  rw [execMemWrFffc, Laws.whileRunning_of_running rfl, k]
  dsimp only
  rw [State.remapSlot2, if_neg (by show ¬ ramEnable 0xF3#8 = true; decide)]
  exact twoPages_copy
    { ({ segaRamState with slot2Page := 1#8 } : State).store 0xFFFC 0xF3#8 with ramCtl := 0xF3#8 }
    1#8 0x8000 rfl (by decide)

/-! ## Header (E2) -/

/-- An 8KB image with the signature at 0x1FF0 and 0x4A at 0x1FFF (E2, fourth row). -/
def headerImage : List Byte :=
  List.replicate 0x1FF0 0#8 ++ (signature ++ List.replicate 7 0#8 ++ [0x4A#8])

theorem headerImage_length : headerImage.length = 0x2000 := by
  rw [headerImage, List.length_append, List.length_replicate]
  rfl

/-- The signature stands at 0x1FF0 of every image that goes on after the 8KB image. -/
theorem headerImage_holds (tail : List Byte) : HoldsSignature (headerImage ++ tail) 0x1FF0 := by
  refine Laws.signatureAt_iff.mp ?_
  rw [signatureAt, headerImage, List.append_assoc, List.drop_left' (by rw [List.length_replicate])]
  rfl

/-- Nothing past the end of an image is a signature. -/
theorem not_holds_past_end {rom : List Byte} {o : Nat} (h : rom.length ≤ o) : ¬ HoldsSignature rom o := by
  intro hs
  have e := hs.1
  rw [List.getElem?_eq_none h] at e
  cases e

/-- Nothing in the zeros that follow the 8KB image is a signature. -/
theorem not_holds_in_zeros {n o : Nat} (h : 0x2000 ≤ o) :
    ¬ HoldsSignature (headerImage ++ List.replicate n 0#8) o := by
  intro hs
  have e := hs.1
  rw [List.getElem?_append_right (by rw [headerImage_length]; exact h), List.getElem?_replicate] at e
  split at e <;> cases e

/-- An image that goes on after the 8KB image has its header at 0x1FF0, if nothing stands at the two offsets of
higher priority. -/
theorem header_found (tail : List Byte) (h1 : ¬ HoldsSignature (headerImage ++ tail) 0x7FF0)
    (h2 : ¬ HoldsSignature (headerImage ++ tail) 0x3FF0) :
    headerOffset (headerImage ++ tail) = some 0x1FF0 := by
  rw [← Laws.signatureAt_iff, Bool.not_eq_true] at h1 h2
  rw [headerOffset, List.find?_cons, h1, List.find?_cons, h2, List.find?_cons,
    Laws.signatureAt_iff.mpr (headerImage_holds tail)]

theorem test_header_of_8kb_image :
    headerOffset headerImage = some 0x1FF0 ∧ headerImage[0x1FF0 + 15]? = some 0x4A#8 := by
  constructor
  · have short : ∀ o, 0x2000 ≤ o → ¬ HoldsSignature (headerImage ++ []) o := fun o ho =>
      not_holds_past_end (by rw [List.append_nil, headerImage_length]; exact ho)
    have := header_found [] (short _ (by omega)) (short _ (by omega))
    rwa [List.append_nil] at this
  · rw [headerImage, List.getElem?_append_right (by rw [List.length_replicate]; omega),
      List.length_replicate]
    rfl

theorem test_header_codes :
    sizeOfCode (sizeCode 0x4A#8) = some (8 * 1024) ∧ regionOfCode (regionCode 0x4A#8) = some .smsExport ∧
    sizeOfCode (sizeCode 0x3C#8) = some (32 * 1024) ∧ regionOfCode (regionCode 0x3C#8) = some .smsJapan ∧
    sizeOfCode (sizeCode 0x4F#8) = some (128 * 1024) ∧ sizeOfCode 0x3#4 = none := by decide

/-! ## LOAD and the refusals -/

/-- A RomOnly configuration that LOAD accepts. -/
def romCfg : Configuration := { Configuration.blank with rom := headerImage }

/-- A SegaBanked configuration that LOAD accepts: one page, the signature at 0x1FF0. -/
def bankedCfg : Configuration :=
  { Configuration.blank with
    mapperKind := .segaBanked, bankCount := 1, rom := headerImage ++ List.replicate 0x2000 0#8 }

theorem romCfg_signature : HasSignature romCfg.rom := by
  have e : romCfg.rom = headerImage ++ [] := (List.append_nil _).symm
  rw [e]
  exact .inr (.inr (headerImage_holds _))

theorem bankedCfg_length : bankedCfg.rom.length = 0x4000 := by
  have e : bankedCfg.rom = headerImage ++ List.replicate 0x2000 0#8 := rfl
  rw [e, List.length_append, headerImage_length, List.length_replicate]

theorem bankedCfg_signature : HasSignature bankedCfg.rom := .inr (.inr (headerImage_holds _))

/-- What LOAD computes of that image. -/
theorem bankedCfg_valid : romValid bankedCfg.rom = true := by
  have e : bankedCfg.rom = headerImage ++ List.replicate 0x2000 0#8 := rfl
  rw [e, romValid, header_found _ (not_holds_in_zeros (by omega)) (not_holds_in_zeros (by omega))]
  rfl

/-- Both configurations pass the three checks of LOAD. -/
theorem test_loadAccepts : LoadAccepts romCfg ∧ LoadAccepts bankedCfg := by
  refine ⟨⟨romCfg_signature, ?_⟩, bankedCfg_signature, ?_⟩
  · show headerImage.length ≤ 0xC000
    rw [headerImage_length]
    omega
  · exact ⟨⟨0, rfl⟩, bankedCfg_length⟩

/-- X10: the bank count is checked before the length, and LOAD stays idle. -/
theorem test_load_bank_count :
    after (exec (.load { bankedCfg with bankCount := 0 }) onState)
      (fun t => (t.running, t.fault)) = some (false, some (.bankCountNotPow2 0)) := by
  have e : exec (.load { bankedCfg with bankCount := 0 }) onState =
      if romValid bankedCfg.rom = true then
        .next (onState.recordFault (.bankCountNotPow2 0)) else .next { onState with running := false } :=
    rfl
  rw [e, if_pos bankedCfg_valid]
  rfl

/-- X5: no signature. -/
theorem test_load_without_signature :
    after (exec (.load Configuration.blank) onState) (fun t => (t.running, t.fault)) =
      some (false, none) := by decide

/-- X6 and X8. -/
theorem test_refusals :
    refusal (exec (.tick 684) State.reset) = some .notRunning ∧
    refusal (exec (.ioRdStatus 0xBF#8) State.reset) = some .notRunning ∧
    refusal (exec .hostReserved5 onState) = some .unknownHostOp ∧
    refusal (exec (.hostReserved67 true) onState) = some .unknownHostOp := by decide

theorem test_step_takes_one_request :
    after (step { onState with input := [reqOut 0xBF#8 0x34#8, reqIn 0xBF#8] })
      (fun t => (t.input, t.pending)) = some ([reqIn 0xBF#8], true) := by decide

/-- R310: with `pending` = 1 the step runs the command word (V4). -/
theorem test_step_runs_command_word :
    after (step { onState with input := [reqOut 0xBF#8 0x81#8], pending := true, latchLo := 0x40#8 })
      (fun t => (t.reg 1, t.pending, t.addr)) = some (0x40#8, false, 0x0140#16) := by decide

/-! ## Witnesses: concrete states and operands that meet the hypotheses of each statement -/

/-- A running block with a waiting transaction. -/
def waiting (r : Request) : State := { onState with input := [r] }

theorem blank_wellFormed : ConfigWellFormed Configuration.blank := Nat.zero_le _

theorem onState_loadable : ConfigLoadable onState := fun _ => blank_wellFormed

theorem segaState_loadable : ConfigLoadable segaState := by
  intro _
  have h : twoPages.length = 0x8000 := by
    rw [twoPages, List.length_append, List.length_append, List.length_replicate,
      List.length_replicate]
    rfl
  exact ⟨⟨1, rfl⟩, h⟩

theorem witness_DecodeOfEncodeIsTheInstruction :
    Instr.WellFormed (.memWr 0xFFFB#16 0xFF#8) ∧ Instr.WellFormed (.ioWrCtrl 0xBF#8 0x40#8) := by
  decide

theorem witness_DecodedInstructionsAreWellFormed :
    decode (.bus 0x312BF40#26) = .ok (.ioWrCtrl 0xBF#8 0x40#8) := by rfl

theorem witness_UpperAddressByteIgnoredByPorts :
    (2#2 = 2#2 ∨ 2#2 = 3#2) ∧ (3#2 = 2#2 ∨ 3#2 = 3#2) := by decide

theorem witness_ReservedHostOpsAreRefused : 5#3 ≤ 5#3 ∧ 5#3 ≤ 7#3 := by decide

theorem witness_StepRunsTheDecodedInstruction :
    (waiting (reqOut 0xBF#8 1#8)).input = reqOut 0xBF#8 1#8 :: [] ∧
    decode (assemble (waiting (reqOut 0xBF#8 1#8)).pending (waiting (reqOut 0xBF#8 1#8)).latchLo
      (reqOut 0xBF#8 1#8)) = .ok (.ioWrCtrl 0xBF#8 1#8) ∧
    State.reset.input = [] := ⟨rfl, rfl, rfl⟩

/-- The first clause at the lowest and the highest control port, the second at each of its three grounds. -/
theorem witness_PendingAloneDecidesTheSecondByte :
    (portClass 0x81#8 = 2#2 ∧ portOdd 0x81#8 = true) ∧
    (portClass 0xBF#8 = 2#2 ∧ portOdd 0xBF#8 = true) ∧
    (2#2 ≠ 3#2 ∨ portClass ((0x00BF#16).setWidth 8) ≠ 2#2) ∧
    portClass ((0x00C1#16).setWidth 8) ≠ 2#2 ∧ portOdd ((0x00BE#16).setWidth 8) = false := by decide

theorem witness_IdleBlockAcceptsOnlyLoad :
    Instr.needsRunning .readFb = true ∧ State.reset.running = false := by decide

theorem witness_RunningBusTransactionsComplete :
    onState.running = true ∧ ConfigLoadable onState ∧ segaState.running = true ∧
    ConfigLoadable segaState ∧ Instr.isBus (.memWrFffe 3#8) = true ∧
    Instr.isBus (.cmdVramRead 0#14) = true :=
  ⟨rfl, onState_loadable, rfl, segaState_loadable, rfl, rfl⟩

theorem witness_NoStepFaultsFromALoadableConfiguration : ConfigLoadable segaState :=
  segaState_loadable

theorem witness_MemReadReturnsTheByte : onState.running = true := rfl

theorem witness_DroppedWritesChangeNothing :
    onState.running = true ∧ onState.config.mapperKind = .romOnly ∧ (0xBFFF#16).toNat < 0xC000 ∧
    segaState.running = true ∧ segaState.config.mapperKind = .segaBanked ∧
    (0x7FFF#16).toNat < 0x8000 ∧
    0x8000 ≤ (0x8000#16).toNat ∧ (0xBFFF#16).toNat ≤ 0xBFFF ∧
    ramEnable segaState.ramCtl = false := by
  refine ⟨rfl, rfl, by decide, rfl, rfl, by decide, by decide, by decide, rfl⟩

theorem witness_RomOnlyWritesReachBothRamWindows :
    onState.running = true ∧ onState.config.mapperKind = .romOnly ∧ 0xC000 ≤ (0xC000#16).toNat ∧
    0xC000 ≤ (0xFFFF#16).toNat := by
  refine ⟨rfl, rfl, by decide, by decide⟩

theorem witness_SegaRamWritesMirrorAllButFourBytes :
    segaState.running = true ∧ segaState.config.mapperKind = .segaBanked ∧
    0xC000 ≤ (0xDFFB#16).toNat ∧ (0xFFFB#16).toNat ≤ 0xFFFB := by
  refine ⟨rfl, rfl, by decide, by decide⟩

theorem witness_SlotTwoRamWritesGoThroughToSram :
    segaRamState.running = true ∧ segaRamState.config.mapperKind = .segaBanked ∧
    0x8000 ≤ (0x8000#16).toNat ∧ (0xBFFF#16).toNat ≤ 0xBFFF ∧
    ramEnable segaRamState.ramCtl = true := by
  refine ⟨rfl, rfl, by decide, by decide, rfl⟩

theorem witness_RamControlWriteRemapsSlotTwo :
    segaState.running = true ∧ segaState.config.mapperKind = .segaBanked ∧
    ConfigLoadable segaState := ⟨rfl, rfl, segaState_loadable⟩

theorem witness_SlotOneSelectCopiesThePage :
    segaState.running = true ∧ segaState.config.mapperKind = .segaBanked ∧
    ConfigLoadable segaState := ⟨rfl, rfl, segaState_loadable⟩

theorem witness_SlotTwoSelectCopiesOnlyWhileRomBacked :
    segaState.running = true ∧ segaState.config.mapperKind = .segaBanked ∧
    ConfigLoadable segaState := ⟨rfl, rfl, segaState_loadable⟩

theorem witness_SlotZeroControlByteOnlyStored :
    segaState.running = true ∧ segaState.config.mapperKind = .segaBanked := ⟨rfl, rfl⟩

theorem witness_SlotOneReadsTheSelectedPage :
    segaState.running = true ∧ segaState.config.mapperKind = .segaBanked ∧
    ConfigLoadable segaState ∧ 0x4000 ≤ (0x4000#16).toNat ∧ (0x7FFF#16).toNat < 0x8000 :=
  ⟨rfl, rfl, segaState_loadable, by decide, by decide⟩

theorem witness_CartridgeRamSurvivesPageSwitches :
    segaState.running = true ∧ segaState.config.mapperKind = .segaBanked ∧
    ConfigLoadable segaState ∧ ramEnable 0x0C#8 = true ∧ 0x8000 ≤ (0x8000#16).toNat ∧
    (0x9FFF#16).toNat < 0x8000 + segaState.config.sramSize :=
  ⟨rfl, rfl, segaState_loadable, rfl, by decide, by decide⟩

theorem witness_FirstControlByteIsLatched : onState.running = true ∧ onState.pending = false :=
  ⟨rfl, rfl⟩

/-- The last clause at its boundary: second bytes 0x40 (code 1) and 0xFF (code 3). -/
theorem witness_SecondControlByteRunsTheCommand :
    ({ onState with pending := true } : State).running = true ∧
    ({ onState with pending := true } : State).pending = true ∧
    64 ≤ (0x40#8).toNat ∧ 64 ≤ (0xFF#8).toNat := ⟨rfl, rfl, by decide, by decide⟩

theorem witness_VramReadCommandPrimesTheBuffer : onState.running = true := rfl

theorem witness_RegWriteCommandWritesOneRegister : onState.running = true := rfl

theorem witness_WriteTargetCommandsOnlyLoadAddressAndCode : onState.running = true := rfl

theorem witness_DataWriteStoresByCode : onState.running = true := rfl

theorem witness_DataReadReturnsTheBufferedByte : onState.running = true := rfl

/-- At the highest legal address, and at 0xC000. -/
theorem witness_AddressRegisterStaysLegal :
    AddressLegal { waiting (reqOut 0xBE#8 1#8) with addr := 0x4000#16 } ∧
    AddressLegal { waiting (reqOut 0xBE#8 1#8) with addr := 0xC000#16 } ∧
    after (step { waiting (reqOut 0xBE#8 1#8) with addr := 0x4000#16 }) State.addr =
      some 0xC000#16 := by
  refine ⟨.inl (by decide), .inr rfl, by decide⟩

theorem witness_WrappedAddressStaysUntilACommand :
    ({ onState with addr := 0xC000#16 } : State).addr = 0xC000#16 ∧
    after (exec (.ioRdData 0xBE#8) { onState with addr := 0xC000#16 }) State.addr = some 0xC000#16 ∧
    after (exec (.ioWrCtrl 0xBF#8 1#8) { onState with addr := 0xC000#16 }) State.addr =
      some 0xC000#16 ∧
    onState.pending = false := by
  refine ⟨rfl, by decide, by decide, rfl⟩

theorem witness_StatusReadReturnsAndClears :
    ({ onState with status := 0xE0#8 } : State).running = true ∧
    StatusLowZero { onState with status := 0xE0#8 } := ⟨rfl, by unfold StatusLowZero; decide⟩

theorem witness_SpriteHooksSetOneStatusBit : onState.running = true := rfl

/-- The two table clauses at the last value listed. -/
theorem witness_CounterReadsReturnTheMappedCounters :
    onState.running = true ∧
    (vcountTable ⟨[7, 9], [], [], [], [], []⟩ .ntsc .lines192)[1]? = some 9#8 ∧
    ([5, 6] : List Byte)[1]? = some 6#8 := ⟨rfl, rfl, rfl⟩

theorem witness_IgnoredPortsAndCounterWritesChangeNothing : onState.running = true := rfl

/-- A next state for each clause. -/
theorem witness_ControlLatchIsATwoStateMachine :
    after (exec (.ioWrCtrl 0xBF#8 0x81#8) onState) State.pending = some true ∧
    after (exec (.ioWrCtrl 0xBF#8 0x81#8) { onState with pending := true }) State.pending =
      some false ∧
    after (exec (.ioRdStatus 0xBF#8) { onState with pending := true }) State.pending = some false ∧
    after (exec (busWrite 0xC000#16 1#8) { onState with pending := true }) State.pending =
      some true := by decide

theorem witness_WrittenByteIsReadBackThroughTheBuffer :
    onState.running = true ∧ onState.pending = false ∧
    ({ onState with
        input := pseudoVramW 0x3FFF#14 ++ [reqOut 0xBE#8 0x5A#8] ++ pseudoVramR 0x3FFF#14 ++
          [reqIn 0xBE#8] ++ [] } : State).input =
      pseudoVramW 0x3FFF#14 ++ [reqOut 0xBE#8 0x5A#8] ++ pseudoVramR 0x3FFF#14 ++
        [reqIn 0xBE#8] ++ [] := ⟨rfl, rfl, rfl⟩

/-- P1's first four transactions are two pseudo-operations. -/
theorem witness_PseudoOperationsExpandCorrectly :
    onState.running = true ∧ onState.pending = false ∧
    pseudoVdpReg 1#4 0x40#8 = [.bus 0x300BF40#26, .bus 0x300BF81#26] ∧
    ({ onState with input := pseudoVdpReg 1#4 0x40#8 ++ [] } : State).input =
      pseudoVdpReg 1#4 0x40#8 ++ [] ∧
    ({ onState with input := pseudoVdpCmd 3#2 0x3FFF#14 ++ [] } : State).input =
      pseudoVdpCmd 3#2 0x3FFF#14 ++ [] := by
  refine ⟨rfl, rfl, by decide, rfl, rfl⟩

/-- The last clause at its boundary, 0 + 683 units. -/
theorem witness_TickAdvancesTheRaster :
    onState.running = true ∧ RasterInRange onState ∧ onState.h + 683 < 684 := by
  refine ⟨rfl, ⟨by decide, by decide⟩, by decide⟩

theorem witness_TickSignalsVblankExactlyAtTheBoundary : onState.running = true := rfl

/-- Row 0 is completed by TICK 684 from reset, row 1 is not; the last pixel of a row and its last byte. -/
theorem witness_TickPaintsExactlyTheCompletedLines :
    onState.running = true ∧ RasterInRange onState ∧ 255 < 256 ∧ 2 < 3 ∧
    (0 < onState.activeHeight ∧
      ∃ j, j < (onState.h + 684) / 684 ∧ (onState.line + j) % onState.config.linesPerFrame = 0) ∧
    ¬ (1 < onState.activeHeight ∧
      ∃ j, j < (onState.h + 684) / 684 ∧ (onState.line + j) % onState.config.linesPerFrame = 1) := by
  refine ⟨rfl, ⟨by decide, by decide⟩, by decide, by decide, ⟨by decide, 0, by decide, by decide⟩, ?_⟩
  rintro ⟨_, j, hj, e⟩
  have h : j = 0 := by
    have : (onState.h + 684) / 684 = 1 := by decide
    omega
  subst h
  exact absurd e (by decide)

theorem witness_TickSplitsIntoParts : onState.running = true := rfl

theorem witness_RenderLinePaintsBlankOrBackground :
    onState.activeHeight ≤ 192 ∧ 191 < onState.activeHeight ∧ 255 < 256 ∧ 2 < 3 := by decide

theorem witness_BackgroundPixelFollowsTheRules : 255 < 256 := by decide

theorem witness_RendererAddressesStayInVram : 7 < 8 := by decide

theorem witness_ReadFbReturnsTheActiveRows : onState.running = true := rfl

/-- An image of 0xD000 bytes with the signature at 0x1FF0. -/
def longCfg : Configuration :=
  { Configuration.blank with rom := headerImage ++ List.replicate 0xB000 0#8 }

theorem longCfg_length : 0xC000 < longCfg.rom.length := by
  have e : longCfg.rom = headerImage ++ List.replicate 0xB000 0#8 := rfl
  rw [e, List.length_append, headerImage_length, List.length_replicate]
  omega

/-- Images with the signature at 0x3FF0, and at 0x7FF0 and 0x1FF0 both (E2, third and fifth rows). -/
def header3FF0 : List Byte := List.replicate 0x2000 0#8 ++ headerImage

def headerTwice : List Byte := headerImage ++ (List.replicate 0x4000 0#8 ++ headerImage)

theorem holds_after_prefix {rom : List Byte} {o : Nat} (pre : List Byte) (h : HoldsSignature rom o) :
    HoldsSignature (pre ++ rom) (pre.length + o) := by
  refine Laws.signatureAt_iff.mp ?_
  rw [signatureAt, List.drop_length_add_append]
  exact Laws.signatureAt_iff.mpr h

theorem headerImage_holds_alone : HoldsSignature headerImage 0x1FF0 := by
  have h := headerImage_holds []
  rwa [List.append_nil] at h

/-- The header clauses: an image for each offset, one with two headers, and one with none. -/
theorem witness_LoadRejects_header :
    (HoldsSignature header3FF0 0x3FF0 ∧ ¬ HoldsSignature header3FF0 0x7FF0) ∧
    (HoldsSignature headerTwice 0x7FF0 ∧ HoldsSignature headerTwice 0x1FF0) ∧
    (HoldsSignature bankedCfg.rom 0x1FF0 ∧ ¬ HoldsSignature bankedCfg.rom 0x7FF0 ∧
      ¬ HoldsSignature bankedCfg.rom 0x3FF0 ∧ headerOffset bankedCfg.rom = some 0x1FF0) ∧
    headerOffset Configuration.blank.rom = none := by
  refine ⟨⟨?_, ?_⟩, ⟨?_, headerImage_holds _⟩, ⟨headerImage_holds _, ?_, ?_, ?_⟩, rfl⟩
  · have h := holds_after_prefix (List.replicate 0x2000 0#8) headerImage_holds_alone
    rwa [List.length_replicate] at h
  · refine not_holds_past_end ?_
    rw [header3FF0, List.length_append, List.length_replicate, headerImage_length]
    omega
  · have h := holds_after_prefix (headerImage ++ List.replicate 0x4000 0#8) headerImage_holds_alone
    have e : (headerImage ++ List.replicate 0x4000 (0#8 : Byte)).length + 0x1FF0 = 0x7FF0 := by
      rw [List.length_append, List.length_replicate, headerImage_length]
    rw [e, List.append_assoc] at h
    exact h
  · exact not_holds_in_zeros (by omega)
  · exact not_holds_in_zeros (by omega)
  · exact header_found _ (not_holds_in_zeros (by omega)) (not_holds_in_zeros (by omega))

/-- One configuration for each of LOAD's four checks. -/
theorem witness_LoadRejectsInTheOrderOfItsChecks :
    ¬ HasSignature Configuration.blank.rom ∧
    (HasSignature bankedCfg.rom ∧ bankedCfg.mapperKind = .segaBanked ∧ ∀ k, 3 ≠ 2 ^ k) ∧
    (HasSignature bankedCfg.rom ∧ (∃ k, 2 = 2 ^ k) ∧ bankedCfg.rom.length ≠ 2 * 0x4000) ∧
    (HasSignature longCfg.rom ∧ longCfg.mapperKind = .romOnly ∧ 0xC000 < longCfg.rom.length) := by
  refine ⟨?_, ⟨bankedCfg_signature, rfl, ?_⟩, ⟨bankedCfg_signature, ⟨1, rfl⟩, ?_⟩,
    .inr (.inr (headerImage_holds _)), rfl, longCfg_length⟩
  · rintro (h | h | h) <;> exact not_holds_past_end (Nat.zero_le _) h
  · intro k h
    match k with
    | 0 => omega
    | k + 1 => rw [Nat.pow_succ] at h; omega
  · rw [bankedCfg_length]
    omega

theorem witness_ValidLoadSetsTheResetValues :
    LoadAccepts romCfg ∧ romCfg.mapperKind = .romOnly ∧ LoadAccepts bankedCfg ∧
    bankedCfg.mapperKind = .segaBanked := ⟨test_loadAccepts.1, rfl, test_loadAccepts.2, rfl⟩

/-- Two different blocks with the same operations waiting and the same count of draws. -/
theorem witness_ReloadLeaksNothing :
    LoadAccepts romCfg ∧ State.reset.input = segaState.input ∧
    State.reset.draws = segaState.draws ∧ State.reset.running ≠ segaState.running :=
  ⟨test_loadAccepts.1, rfl, rfl, by decide⟩

theorem witness_OnlyLoadChangesTheRun :
    (∃ t, exec (.memRd 0#16) onState = .next t) ∧ (∀ c, Instr.memRd 0#16 ≠ .load c) ∧
    FaultStopsRun onState := by
  refine ⟨⟨_, rfl⟩, ?_, fun h => absurd rfl h⟩
  intro c h
  cases h

/-- For each clause an operation that makes the change it speaks of. -/
theorem witness_EachPieceOfVideoStateHasOneWriter :
    after (exec (.ioWrData 0xBE#8 1#8) { onState with code := 1#2 }) State.vram = some [(0, 1#8)] ∧
    after (exec (.ioWrData 0xBE#8 1#8) { onState with code := 3#2 }) State.cram = some [(0, 1#8)] ∧
    after (exec (.cmdRegWrite 0x0140#14) onState) (fun t => t.reg 1) = some 0x40#8 ∧
    after (exec (.ioWrCtrl 0xBF#8 0x81#8) { onState with pending := true, latchLo := 0x40#8 })
      (fun t => t.reg 1) = some 0x40#8 ∧
    after (exec (.tick 1) { onState with h := 683, line := 191 }) (fun t => flagF t.status) =
      some true ∧
    after (exec .setSpriteOverflow onState) (fun t => flagOvr t.status) = some true ∧
    after (exec .setSpriteCollision onState) (fun t => flagCol t.status) = some true ∧
    after (exec (.ioRdStatus 0xBF#8) { onState with status := 0xE0#8 })
      (fun t => (flagF t.status, flagOvr t.status, flagCol t.status)) =
      some (false, false, false) := by decide

/-- The clause on the framebuffer, too: T3 paints row 0. -/
theorem witness_EachPiece_framebuffer :
    after (exec (.tick 1) { blankRgbState with h := 683 }) (fun t => t.fb.read 0) =
      some 1#8 := by decide +kernel

/-- Both ranges of register numbers at their ends; a register write and a second control byte to another register. -/
theorem witness_StoredRegistersHaveNoEffect :
    (3 ≤ (3#4).toNat ∧ (3#4).toNat ≤ 7) ∧ (3 ≤ (7#4).toNat ∧ (7#4).toNat ≤ 7) ∧
    10 ≤ (10#4).toNat ∧ 10 ≤ (15#4).toNat ∧
    (∃ t, exec (.cmdRegWrite 0x0340#14) onState = .next t) ∧
    (0x0340#14).toNat / 256 % 16 ≠ (4#4).toNat ∧
    (∃ t, exec (.ioWrCtrl 0xBF#8 0x83#8) { onState with pending := true } = .next t) ∧
    (0x83#8).toNat / 64 = 2 ∧ (0x83#8).toNat % 16 ≠ (4#4).toNat :=
  ⟨by decide, by decide, by decide, by decide, ⟨_, rfl⟩, by decide, ⟨_, rfl⟩, by decide, by decide⟩

theorem reset_canonical : MemoriesCanonical State.reset := by
  refine ⟨⟨?_, ?_⟩, ⟨?_, ?_⟩, ⟨?_, ?_⟩, ⟨?_, ?_⟩, ?_, ?_⟩ <;> decide

/-- A block with a byte listed in MEM and a transaction waiting. -/
theorem witness_StepsKeepMemoriesCanonical :
    MemoriesCanonical { waiting (reqWrite 0xC000#16 1#8) with mem := [(65535, 1#8)] } ∧
    ∃ t, step { waiting (reqWrite 0xC000#16 1#8) with mem := [(65535, 1#8)] } = .next t := by
  have r := reset_canonical
  refine ⟨⟨r.vram, r.cram, r.fb, ⟨by decide, by decide⟩, r.sram⟩, _, rfl⟩

/-- The last unit of the last line of a frame, with a TICK waiting. -/
theorem witness_StepsKeepTheRasterInRange :
    RasterInRange { waiting (.host 0#3 (.units 1)) with h := 683, line := 261 } ∧
    ∃ t, step { waiting (.host 0#3 (.units 1)) with h := 683, line := 261 } = .next t := by
  refine ⟨⟨by decide, by decide⟩, _, rfl⟩

theorem witness_StepsKeepStatusFaultAndConfiguration :
    StatusLowZero { waiting (.host 1#3 .nothing) with status := 0xA0#8 } ∧
    FaultStopsRun { waiting (.host 1#3 .nothing) with status := 0xA0#8 } ∧
    ConfigLoadable { waiting (.host 1#3 .nothing) with status := 0xA0#8 } ∧
    ∃ t, step { waiting (.host 1#3 .nothing) with status := 0xA0#8 } = .next t :=
  ⟨by unfold StatusLowZero; decide, fun h => absurd rfl h, fun _ => blank_wellFormed, _, rfl⟩

/-- A running RomOnly block with a transaction waiting; a configuration that LOAD accepts. -/
theorem witness_StepsKeepTheTranslationView :
    ConfigLoadable (waiting (reqWrite 0xC000#16 1#8)) ∧
    TranslationView (waiting (reqWrite 0xC000#16 1#8)) ∧
    (∃ t, step (waiting (reqWrite 0xC000#16 1#8)) = .next t) ∧ LoadAccepts bankedCfg := by
  refine ⟨fun _ => blank_wellFormed, ?_, ⟨_, rfl⟩, test_loadAccepts.2⟩
  exact (⟨fun _ _ => rfl, fun _ _ _ => rfl, fun _ _ _ => rfl⟩ :
    RomOnlyView (waiting (reqWrite 0xC000#16 1#8)))

/-- The SegaBanked part: two pages of zeros, MEM and SRAM empty, a slot-1 select waiting. -/
def zeroSega : State :=
  { waiting (reqWrite 0xFFFE#16 1#8) with
    config := { segaCfg with rom := List.replicate 0x8000 0#8 } }

theorem zeroSega_byte (i : Nat) : romByte zeroSega.config i = 0#8 := by
  have e : zeroSega.config.rom = List.replicate 0x8000 0#8 := rfl
  rw [romByte, e, List.getElem?_replicate]
  split <;> rfl

theorem witness_StepsKeepTheTranslationView_banked :
    ConfigLoadable zeroSega ∧ TranslationView zeroSega ∧ ∃ t, step zeroSega = .next t := by
  have w : ConfigWellFormed zeroSega.config := ⟨⟨1, rfl⟩, List.length_replicate⟩
  have k : zeroSega.config.mapperKind = .segaBanked := rfl
  have m : ∀ a, zeroSega.mem.read a = 0#8 := fun _ => rfl
  refine ⟨fun _ => w, ?_, ?_⟩
  · show SegaView zeroSega
    refine ⟨?_, ?_, ?_, ?_, ?_⟩
    · intro a _; rw [m, zeroSega_byte]
    · intro a _ _; rw [m, zeroSega_byte]
    · intro _ a _ _; rw [m, zeroSega_byte]
    · intro h; cases h
    · intro a _ _; rw [m, m]
  · have d : step zeroSega = execMemWrFffe 1#8 { zeroSega with input := [] } := by rfl
    rw [d, execMemWrFffe, Laws.whileRunning_of_running rfl]
    exact ⟨_, Laws.copyRomPage_of_pageInImage 0x4000 (Laws.pageInImage_of_wellFormed k w 1#8)⟩

end Sys2Proof.Tests
end

section
/-! SUPPORT. What an answered operation can have done to the state, said once: one case per kind of
operation. The writers of each piece of state and the invariants of every step are read off it; the first
of them is the form of the memories (O56). -/

namespace Sys2Proof.Proofs

open Machine Laws

/-! ## What an operation can do -/

/-- The rows of R301 that write CPU memory. -/
def writesMemory : Instr → Bool
  | .memWr _ _ | .memWrFffc _ | .memWrFffd _ | .memWrFffe _ | .memWrFfff _ => true
  | _ => false

/-- The operation is a register write: its command word, or the control byte that completes one (R500, R512). -/
def WritesRegister (s : State) (i : Instr) : Prop :=
  (∃ a, i = .cmdRegWrite a) ∨ ∃ p v, i = .ioWrCtrl p v ∧ s.pending = true ∧ v.toNat / 64 = 2

/-- `Effect s i t`: what operation `i` has done to `s` where it answers `t`; every field that a case does not
name is that of `s`. What LOAD does is left to `load_next`. -/
inductive Effect (s : State) : Instr → State → Prop
  /-- No state of the spec's is changed. -/
  | quiet {i : Instr} (r : Reply) (d : Nat) : Effect s i { s with reply := r, draws := d }
  | memory {i : Instr} (hi : writesMemory i = true) (m r : Memory) (c p q : Byte) : Effect s i
      { s with mem := m, sram := r, ramCtl := c, slot1Page := p, slot2Page := q }
  | dataRead (p : Byte) : Effect s (.ioRdData p)
      { s with
        rbuf := s.vram.read (vIdx s.addr), addr := inc s.addr, pending := false,
        reply := .byte s.rbuf }
  | statusRead (p : Byte) : Effect s (.ioRdStatus p)
      { s with status := clearFlags s.status, pending := false, reply := .byte s.status }
  | dataWrite (p v : Byte) : Effect s (.ioWrData p v)
      { s with
        vram := (s.storeData v).vram, cram := (s.storeData v).cram, rbuf := v,
        addr := inc s.addr, pending := false }
  | firstByte (p v : Byte) (hp : s.pending = false) : Effect s (.ioWrCtrl p v)
      { s with latchLo := v, pending := true }
  /-- A command word loads `addr`, or its successor where it primes the buffer; it changes a register only where
  it is a register write. -/
  | command {i : Instr} (a : BitVec 14) (x : Word16) (c : BitVec 2) (b : Byte) (g : Vector Byte 16)
      (hx : x = a.setWidth 16 ∨ x = inc (a.setWidth 16)) (hg : g = s.regs ∨ WritesRegister s i) :
      Effect s i { s with addr := x, code := c, rbuf := b, regs := g, pending := false }
  /-- The `k` line crossings that TICK makes of the units it has. -/
  | tick (n k : Nat) (hk : k = (s.h + n) / 684) : Effect s (.tick n)
      { s with
        line := (State.crossLines k s false).1.line, fb := (State.crossLines k s false).1.fb,
        status := (State.crossLines k s false).1.status, h := (s.h + n) % 684,
        reply := .vblank (State.crossLines k s false).2 }
  | spriteOverflow : Effect s .setSpriteOverflow { s with status := setOvr s.status }
  | spriteCollision : Effect s .setSpriteCollision { s with status := setCol s.status }
  | load {t : State} (c : Configuration) (h : exec (.load c) s = .next t) : Effect s (.load c) t

/-- CODE of a completed command word is bits 7:6 of its second byte (R310, R311). -/
theorem cmdCode_commandWord_toNat (v f : Byte) : (cmdCode (commandWord v f)).toNat = v.toNat / 64 := by
  have hv := v.isLt
  have hf := f.isLt
  rw [cmdCode, commandWord, BitVec.extractLsb'_toNat, BitVec.toNat_append,
    ← Nat.shiftLeft_add_eq_or_of_lt hf, Nat.shiftLeft_eq, Nat.shiftRight_eq_div_pow]
  omega

/-- The frame of a memory write, as its effect. -/
theorem memory_effect {i : Instr} {s t : State} (hi : writesMemory i = true)
    (ht : { t with
      mem := s.mem, sram := s.sram, ramCtl := s.ramCtl, slot1Page := s.slot1Page,
      slot2Page := s.slot2Page } = s) : Effect s i t := by
  have e : t = { s with
      mem := t.mem, sram := t.sram, ramCtl := t.ramCtl, slot1Page := t.slot1Page,
      slot2Page := t.slot2Page } :=
    congrArg (fun u : State => { u with
      mem := t.mem, sram := t.sram, ramCtl := t.ramCtl, slot1Page := t.slot1Page,
      slot2Page := t.slot2Page }) ht
  exact e.symm ▸ Effect.memory hi t.mem t.sram t.ramCtl t.slot1Page t.slot2Page

theorem dataWrite_effect (s : State) (p v : Byte) :
    Effect s (.ioWrData p v) (State.advance { s.clearPending.storeData v with rbuf := v }) := by
  have e : State.advance { s.clearPending.storeData v with rbuf := v } = { s with
      vram := (s.storeData v).vram, cram := (s.storeData v).cram, rbuf := v,
      addr := inc s.addr, pending := false } := by
    by_cases h : s.code = 3#2
    · simp [State.storeData, State.advance, State.clearPending, h]
    · simp [State.storeData, State.advance, State.clearPending, h]
  exact e ▸ Effect.dataWrite p v

theorem command_effect {i : Instr} {s : State} {c : BitVec 2} (a : BitVec 14)
    (hc : c = 2#2 → WritesRegister s i) : Effect s i (s.clearPending.execCommand c a) := by
  obtain ⟨_, e⟩ | ⟨_, e⟩ | ⟨h2, e⟩ | ⟨_, e⟩ := execCommand_cases s.clearPending c a <;> rw [e]
  · exact .command a _ _ _ _ (.inr rfl) (.inl rfl)
  · exact .command a _ _ s.rbuf _ (.inl rfl) (.inl rfl)
  · exact .command a _ _ s.rbuf _ (.inl rfl) (.inr (hc h2))
  · exact .command a _ _ s.rbuf _ (.inl rfl) (.inl rfl)

theorem tick_effect {s t : State} {n : Nat} (h : exec (.tick n) s = .next t) :
    Effect s (.tick n) t := by
  have f := crossLines_frame ((s.h + n) / 684) s false
  have k := Effect.tick (s := s) n _ rfl
  rw [exec_tick n (tick_next h).1] at h
  cases h
  generalize State.crossLines ((s.h + n) / 684) s false = u at f k ⊢
  have e : { u.1 with h := (s.h + n) % 684, reply := .vblank u.2 } = { s with
      line := u.1.line, fb := u.1.fb, status := u.1.status, h := (s.h + n) % 684,
      reply := .vblank u.2 } :=
    congrArg (fun w : State => { w with
      line := u.1.line, fb := u.1.fb, status := u.1.status, h := (s.h + n) % 684,
      reply := .vblank u.2 }) f
  exact e ▸ k

/-- Every answered operation had one of these effects. -/
theorem exec_effect {i : Instr} {s t : State} (h : exec i s = .next t) : Effect s i t := by
  cases i with
  | memRd a => obtain ⟨_, rfl⟩ := memRd_next h; exact .quiet _ s.draws
  | memWrFffc v => exact memory_effect rfl (memWrFffc_frame h)
  | memWrFffd v => exact memory_effect rfl (memWrFffd_frame h)
  | memWrFffe v => exact memory_effect rfl (memWrFffe_frame h)
  | memWrFfff v => exact memory_effect rfl (memWrFfff_frame h)
  | memWr a v => exact memory_effect rfl (memWr_frame h)
  | ioRdVcount p => obtain ⟨_, rfl⟩ := ioRdVcount_next h; exact .quiet _ s.draws
  | ioRdHcount p => obtain ⟨_, rfl⟩ := ioRdHcount_next h; exact .quiet _ s.draws
  | ioRdData p => obtain ⟨_, rfl⟩ := ioRdData_next h; exact .dataRead p
  | ioRdStatus p => obtain ⟨_, rfl⟩ := ioRdStatus_next h; exact .statusRead p
  | ioRdIgnLo p => obtain ⟨_, rfl⟩ := ioRdIgnLo_next h; exact .quiet _ _
  | ioRdIgnHi p => obtain ⟨_, rfl⟩ := ioRdIgnHi_next h; exact .quiet _ _
  | ioWrCounter p v => obtain ⟨_, rfl⟩ := ioWrCounter_next h; exact .quiet t.reply t.draws
  | ioWrData p v => obtain ⟨_, rfl⟩ := ioWrData_next h; exact dataWrite_effect s p v
  | ioWrCtrl p v =>
    obtain ⟨_, ⟨hp, rfl⟩ | ⟨hp, rfl⟩⟩ := ioWrCtrl_next h
    · refine command_effect _ fun hc => .inr ⟨p, v, rfl, hp, ?_⟩
      rw [← cmdCode_commandWord_toNat v s.latchLo, hc]
      rfl
    · exact .firstByte p v hp
  | ioWrIgnLo p v => obtain ⟨_, rfl⟩ := ioWrIgnLo_next h; exact .quiet t.reply t.draws
  | ioWrIgnHi p v => obtain ⟨_, rfl⟩ := ioWrIgnHi_next h; exact .quiet t.reply t.draws
  | cmdVramRead a => obtain ⟨_, rfl⟩ := cmdVramRead_next h; exact command_effect a nofun
  | cmdVramWrite a => obtain ⟨_, rfl⟩ := cmdVramWrite_next h; exact command_effect a nofun
  | cmdRegWrite a => obtain ⟨_, rfl⟩ := cmdRegWrite_next h; exact command_effect a fun _ => .inl ⟨a, rfl⟩
  | cmdCramWrite a => obtain ⟨_, rfl⟩ := cmdCramWrite_next h; exact command_effect a nofun
  | tick n => exact tick_effect h
  | setSpriteOverflow => obtain ⟨_, rfl⟩ := setSpriteOverflow_next h; exact .spriteOverflow
  | setSpriteCollision => obtain ⟨_, rfl⟩ := setSpriteCollision_next h; exact .spriteCollision
  | load c => exact .load c h
  | readFb => obtain ⟨_, rfl⟩ := readFb_next h; exact .quiet _ s.draws
  | hostReserved5 => cases h
  | hostReserved67 low => cases h

/-- What every operation keeps, and the queue does not touch, every step keeps. -/
theorem step_keeps {P : State → Prop} (hq : ∀ s rest, P s → P { s with input := rest })
    (hx : ∀ {i s t}, P s → exec i s = .next t → P t) {s t : State} (hs : P s)
    (h : step s = .next t) : P t := by
  rcases step_next h with ⟨_, rfl⟩ | ⟨_, rest, _, _, _, he⟩
  · exact hs
  · exact hx (hq s rest hs) he

/-- What one line crossing keeps, any number of them keeps. -/
theorem crossLines_keeps {P : State → Prop} (hx : ∀ s, P s → P s.crossLine.1) (k : Nat) {s : State}
    {b : Bool} (hs : P s) : P (State.crossLines k s b).1 := by
  induction k generalizing s b with
  | zero => exact hs
  | succ k ih => exact ih (hx s hs)

/-! ## Canonical memories inside a size -/

/-- A memory in canonical form, inside `size`. -/
def Fits (m : Memory) (size : Nat) : Prop := m.wf ∧ m.within size

theorem fits_nil (size : Nat) : Fits [] size := ⟨wf_nil, fun _ h => nomatch h⟩

theorem fits_write {m : Memory} {size a : Nat} (h : Fits m size) (ha : a < size) (v : Byte) :
    Fits (m.write a v) size :=
  ⟨wf_write h.1 a v, within_write h.2 ha v⟩

theorem fits_blit {m : Memory} {size base : Nat} {bytes : List Byte} (h : Fits m size)
    (hb : base + bytes.length ≤ size) : Fits (m.blit base bytes) size :=
  ⟨wf_blit h.1 base bytes, within_blit h.2 hb⟩

theorem fits_copyIn {m src : Memory} {size n base len : Nat} (h : Fits m size) (hs : Fits src n)
    (hb : base + len ≤ size) (start : Nat) : Fits (m.copyIn base len src start) size :=
  ⟨wf_copyIn h.1 hs.1 base len start, within_copyIn h.2 hb⟩

theorem romPage_length_le (rom : List Byte) (q : Nat) : (romPage rom q).length ≤ 0x4000 :=
  List.length_take_le _ _

theorem sramSize_le (c : Configuration) : c.sramSize ≤ 0x4000 := by
  unfold Configuration.sramSize; cases c.sramPage <;> decide

/-- A byte of the mapped cartridge-RAM page lies inside the two pages of SRAM (R114, R412). -/
theorem sramIndex_lt (b : Byte) {i size : Nat} (hi : i < size) : ramPage b * size + i < 2 * size := by
  have h : ramPage b * size ≤ 1 * size := Nat.mul_le_mul_right size (ramPage_le b)
  omega

/-! ## The memory writes keep MEM and SRAM canonical -/

/-- MEM and SRAM are canonical and inside their sizes (R112, R114). -/
def CpuMemoryFits (s : State) : Prop := Fits s.mem 65536 ∧ Fits s.sram (2 * s.config.sramSize)

theorem store_fits {s : State} {a : Nat} (h : CpuMemoryFits s) (ha : a < 65536) (v : Byte) :
    CpuMemoryFits (s.store a v) :=
  ⟨fits_write h.1 ha v, h.2⟩

theorem romOnlyRamWrite_fits {s : State} (h : CpuMemoryFits s) (a : Word16) (v : Byte) :
    CpuMemoryFits (s.romOnlyRamWrite a v) := by
  have ha := a.isLt
  unfold State.romOnlyRamWrite
  split
  · have : a.toNat < 0xE000 := ‹a < 0xE000#16›
    exact store_fits (store_fits h ha v) (by omega) v
  · exact store_fits (store_fits h ha v) (by omega) v

theorem segaRamWrite_fits {s : State} (h : CpuMemoryFits s) (a : Word16) (v : Byte) :
    CpuMemoryFits (s.segaRamWrite a v) := by
  have ha := a.isLt
  unfold State.segaRamWrite
  split
  · have : a.toNat ≤ 0xDFFB := ‹a ≤ 0xDFFB#16›
    exact store_fits (store_fits h ha v) (by omega) v
  · split
    · exact store_fits h ha v
    · exact store_fits (store_fits h ha v) (by omega) v

theorem slot2RamWrite_fits {s : State} (h : CpuMemoryFits s) (a : Word16) (v : Byte) :
    CpuMemoryFits (s.slot2RamWrite a v) := by
  obtain ⟨hm, hr⟩ := store_fits h a.isLt v
  unfold State.slot2RamWrite
  split
  · exact ⟨hm, fits_write hr (sramIndex_lt _ ‹_›) v⟩
  · exact ⟨hm, hr⟩

/-- A bank of at most 0x4000 bytes copied below the RAM stays inside MEM (R430). -/
theorem blit_romPage_fits {m : Memory} {base : Nat} (h : Fits m 65536) (hb : base ≤ 0x8000)
    (rom : List Byte) (q : Nat) : Fits (m.blit base (romPage rom q)) 65536 :=
  fits_blit h (by have := romPage_length_le rom q; omega)

theorem copySramPage_fits {s : State} (h : CpuMemoryFits s) : CpuMemoryFits s.copySramPage :=
  ⟨fits_copyIn h.1 h.2 (by have := sramSize_le s.config; omega) _, h.2⟩

/-- Every memory write keeps MEM and SRAM canonical and inside their sizes. -/
theorem writesMemory_fits {i : Instr} {s t : State} (hi : writesMemory i = true)
    (hs : CpuMemoryFits s) (h : exec i s = .next t) : CpuMemoryFits t := by
  cases i with
  | memWr a v =>
    obtain ⟨_, rfl | ⟨_, _, rfl⟩ | ⟨_, _, _, _, rfl⟩ | ⟨_, _, rfl⟩⟩ := memWr_next h
    · exact hs
    · exact romOnlyRamWrite_fits hs a v
    · exact slot2RamWrite_fits hs a v
    · exact segaRamWrite_fits hs a v
  | memWrFffc v =>
    have hm : CpuMemoryFits { s.store 0xFFFC v with ramCtl := v } := store_fits hs (by decide) v
    obtain ⟨_, ⟨_, rfl⟩ | ⟨_, _, rfl⟩ | ⟨_, _, _, rfl⟩⟩ := memWrFffc_next h
    · exact romOnlyRamWrite_fits hs _ v
    · exact copySramPage_fits hm
    · exact ⟨blit_romPage_fits hm.1 (by decide) _ _, hm.2⟩
  | memWrFffd v =>
    obtain ⟨_, ⟨_, rfl⟩ | ⟨_, rfl⟩⟩ := memWrFffd_next h
    · exact romOnlyRamWrite_fits hs _ v
    · exact store_fits hs (by decide) v
  | memWrFffe v =>
    have hm := store_fits hs (a := 0xFFFE) (by decide) v
    obtain ⟨_, ⟨_, rfl⟩ | ⟨_, _, rfl⟩⟩ := memWrFffe_next h
    · exact romOnlyRamWrite_fits hs _ v
    · exact ⟨blit_romPage_fits hm.1 (by decide) _ _, hm.2⟩
  | memWrFfff v =>
    have hm := store_fits hs (a := 0xFFFF) (by decide) v
    obtain ⟨_, ⟨_, rfl⟩ | ⟨_, _, rfl⟩ | ⟨_, _, _, rfl⟩⟩ := memWrFfff_next h
    · exact romOnlyRamWrite_fits hs _ v
    · exact hm
    · exact ⟨blit_romPage_fits hm.1 (by decide) _ _, hm.2⟩
  | _ => cases hi

/-! ## The other writers of a memory -/

/-- FB canonical and inside its size (R111). -/
def FramebufferFits (s : State) : Prop := Fits s.fb fbSize

/-- An active line lies inside the 240 rows of FB (R111, R601). -/
theorem lineMode_height_le (m : LineMode) : m.height ≤ 240 := by cases m <;> decide

/-- The line a crossing renders lies inside FB. -/
theorem crossLine_framebufferFits {s : State} (h : FramebufferFits s) :
    FramebufferFits s.crossLine.1 := by
  unfold FramebufferFits
  rw [crossLine_fb]
  unfold State.renderLine
  split
  · exact h
  · refine fits_blit h ?_
    have hl : s.line < s.activeHeight := Nat.lt_of_not_le ‹_›
    have hh : s.activeHeight ≤ 240 := lineMode_height_le _
    rw [pixelBytes_length, List.length_map, List.length_range]
    unfold fbOffset fbSize
    omega

theorem storeData_canonical {s : State} (h : MemoriesCanonical s) (v : Byte) :
    MemoriesCanonical (s.storeData v) := by
  unfold State.storeData
  split
  · exact ⟨h.vram, fits_write h.cram (cIdx_lt _) v, h.fb, h.mem, h.sram⟩
  · exact ⟨fits_write h.vram (vIdx_lt _) v, h.cram, h.fb, h.mem, h.sram⟩

/-- MEM as LOAD leaves it: the image checked against 0xC000, or pages of at most 0x4000 bytes (R401, R440, R441). -/
theorem initialMem_fits {c : Configuration} (hl : lengthCheck c = true) :
    Fits (initialMem c) 65536 := by
  unfold initialMem
  unfold lengthCheck at hl
  split <;> rename_i hk <;> rw [hk] at hl
  · have : c.rom.length ≤ 0xC000 := of_decide_eq_true hl
    exact fits_blit (fits_nil _) (by omega)
  · exact blit_romPage_fits (blit_romPage_fits (blit_romPage_fits (fits_nil _) (by decide) _ _)
      (by decide) _ _) (by decide) _ _

theorem loaded_canonical {c : Configuration} (s : State) (hl : lengthCheck c = true) :
    MemoriesCanonical (s.loaded c) :=
  ⟨fits_nil _, fits_nil _, fits_nil _, initialMem_fits hl, fits_nil _⟩

/-- Every operation keeps the five memories canonical and inside their sizes. -/
theorem exec_keeps_canonical {i : Instr} {s t : State} (hs : MemoriesCanonical s)
    (h : exec i s = .next t) : MemoriesCanonical t := by
  cases exec_effect h with
  | memory hi =>
    obtain ⟨hm, hr⟩ := writesMemory_fits hi ⟨hs.mem, hs.sram⟩ h
    exact ⟨hs.vram, hs.cram, hs.fb, hm, hr⟩
  | dataWrite p v =>
    have k := storeData_canonical hs v
    exact ⟨k.vram, k.cram, hs.fb, hs.mem, hs.sram⟩
  | tick n k =>
    have f := crossLines_keeps (P := FramebufferFits) (fun _ => crossLine_framebufferFits) k (b := false) hs.fb
    exact ⟨hs.vram, hs.cram, f, hs.mem, hs.sram⟩
  | load c =>
    obtain ⟨_, _, hl, rfl⟩ | ⟨_, rfl⟩ | rfl := load_next h
    · exact loaded_canonical s hl
    · exact ⟨hs.vram, hs.cram, hs.fb, hs.mem, hs.sram⟩
    · exact ⟨hs.vram, hs.cram, hs.fb, hs.mem, hs.sram⟩
  | _ => exact ⟨hs.vram, hs.cram, hs.fb, hs.mem, hs.sram⟩

/-- Settles O56: the queue is no memory, and every operation keeps the form. -/
theorem stepsKeepMemoriesCanonical : Obligations.StepsKeepMemoriesCanonical := by
  intro s t hs h
  exact step_keeps (fun _ _ k => ⟨k.vram, k.cram, k.fb, k.mem, k.sram⟩) exec_keeps_canonical hs h

end Sys2Proof.Proofs
end

section
/-! SUPPORT. The writers of each piece of video state, and the invariants of the address register, the
raster, the status register and the run (O32, O54, O57, O58, O60). -/

namespace Sys2Proof.Proofs

open Machine Laws

/-! ## The address register -/

/-- Inc steps from 0x4000 to 0xC000 and stays there, so it leaves the legal values by no other way (R530, R533). -/
theorem inc_legal {a : Word16} (h : a ≤ 0x4000#16 ∨ a = 0xC000#16) :
    inc a ≤ 0x4000#16 ∨ inc a = 0xC000#16 := by
  unfold inc
  split
  · exact .inr rfl
  · rename_i hq
    rw [lowTen_zero_iff] at hq
    obtain h | rfl := h
    · have ha : a.toNat ≤ 0x4000 := h
      refine .inl (BitVec.le_def.mpr ?_)
      have hn : (a + 1#16).toNat = a.toNat + 1 := BitVec.toNat_add_of_lt (by simp; omega)
      rw [hn]
      show a.toNat + 1 ≤ 0x4000
      omega
    · exact absurd rfl hq

theorem commandAddress_legal (a : BitVec 14) : a.setWidth 16 ≤ 0x4000#16 := by
  refine BitVec.le_def.mpr ?_
  have ha := a.isLt
  rw [BitVec.toNat_setWidth, Nat.mod_eq_of_lt (by omega)]
  show a.toNat ≤ 0x4000
  omega

theorem exec_keeps_addressLegal {i : Instr} {s t : State} (hs : AddressLegal s)
    (h : exec i s = .next t) : AddressLegal t := by
  cases exec_effect h with
  | dataRead | dataWrite => exact inc_legal hs
  | command a x c b g hx hg =>
    obtain rfl | rfl := hx
    · exact .inl (commandAddress_legal a)
    · exact inc_legal (.inl (commandAddress_legal a))
  | load c =>
    obtain ⟨_, _, _, rfl⟩ | ⟨_, rfl⟩ | rfl := load_next h
    · exact .inl (show 0#16 ≤ 0x4000#16 by decide)
    · exact hs
    · exact hs
  | _ => exact hs

/-- Settles O32: Inc and the command words give legal addresses, and nothing else writes `addr` but LOAD. -/
theorem addressRegisterStaysLegal : Obligations.AddressRegisterStaysLegal := by
  intro s t hs h
  exact step_keeps (fun _ _ k => k) exec_keeps_addressLegal hs h

/-! ## The raster -/

theorem linesPerFrame_pos (c : Configuration) : 0 < c.linesPerFrame := by
  unfold Configuration.linesPerFrame
  cases c.region <;> exact Nat.succ_pos _

/-- The line number is below `n`, the frame length of the configuration that stands. -/
def LineBelow (n : Nat) (s : State) : Prop := s.config.linesPerFrame = n ∧ s.line < n

theorem crossLine_lineBelow {n : Nat} {s : State} (h : LineBelow n s) : LineBelow n s.crossLine.1 := by
  obtain ⟨hn, _⟩ := h
  have hc : s.crossLine.1.config = s.config := (congrArg State.config (crossLine_frame s) :)
  refine ⟨by rw [hc]; exact hn, ?_⟩
  rw [crossLine_line, ← hn]
  exact Nat.mod_lt _ (linesPerFrame_pos _)

theorem exec_keeps_raster {i : Instr} {s t : State} (hs : RasterInRange s)
    (h : exec i s = .next t) : RasterInRange t := by
  cases exec_effect h with
  | tick n k =>
    have hl := crossLines_keeps (P := LineBelow s.config.linesPerFrame)
      (fun _ => crossLine_lineBelow) k (b := false) ⟨rfl, hs.2⟩
    exact ⟨Nat.mod_lt _ (by decide), hl.2⟩
  | load c =>
    obtain ⟨_, _, _, rfl⟩ | ⟨_, rfl⟩ | rfl := load_next h
    · exact ⟨Nat.succ_pos _, linesPerFrame_pos c⟩
    · exact hs
    · exact hs
  | _ => exact hs

/-- Settles O57: TICK reduces `h` by 684 and the line by LINES_PER_FRAME; only LOAD writes either besides. -/
theorem stepsKeepTheRasterInRange : Obligations.StepsKeepTheRasterInRange := by
  intro s t hs h
  exact step_keeps (fun _ _ k => k) exec_keeps_raster hs h

/-! ## The status register -/

theorem setF_flags (st : Byte) :
    flagF (setF st) = true ∧ flagOvr (setF st) = flagOvr st ∧ flagCol (setF st) = flagCol st ∧
      setF st &&& 0x1F#8 = st &&& 0x1F#8 := by
  refine ⟨by simp [flagF, setF], by simp [flagOvr, setF], by simp [flagCol, setF], ?_⟩
  rw [setF, BitVec.and_or_distrib_right]
  exact BitVec.or_zero

theorem setOvr_flags (st : Byte) :
    flagF (setOvr st) = flagF st ∧ flagOvr (setOvr st) = true ∧ flagCol (setOvr st) = flagCol st ∧
      setOvr st &&& 0x1F#8 = st &&& 0x1F#8 := by
  refine ⟨by simp [flagF, setOvr], by simp [flagOvr, setOvr], by simp [flagCol, setOvr], ?_⟩
  rw [setOvr, BitVec.and_or_distrib_right]
  exact BitVec.or_zero

theorem setCol_flags (st : Byte) :
    flagF (setCol st) = flagF st ∧ flagOvr (setCol st) = flagOvr st ∧ flagCol (setCol st) = true ∧
      setCol st &&& 0x1F#8 = st &&& 0x1F#8 := by
  refine ⟨by simp [flagF, setCol], by simp [flagOvr, setCol], by simp [flagCol, setCol], ?_⟩
  rw [setCol, BitVec.and_or_distrib_right]
  exact BitVec.or_zero

theorem clearFlags_flags (st : Byte) :
    flagF (clearFlags st) = false ∧ flagOvr (clearFlags st) = false ∧
      flagCol (clearFlags st) = false ∧ clearFlags st &&& 0x1F#8 = st &&& 0x1F#8 := by
  refine ⟨by simp [flagF, clearFlags], by simp [flagOvr, clearFlags], by simp [flagCol, clearFlags], ?_⟩
  rw [clearFlags, BitVec.and_assoc, BitVec.and_self]

theorem setF_setF (st : Byte) : setF (setF st) = setF st := by
  rw [setF, setF, BitVec.or_assoc, BitVec.or_self]

/-- The crossings of a TICK leave the status register or set bit 7 (R604). -/
theorem crossLines_status (k : Nat) (s : State) (b : Bool) :
    (State.crossLines k s b).1.status = s.status ∨
      (State.crossLines k s b).1.status = setF s.status := by
  refine crossLines_keeps (P := fun u => u.status = s.status ∨ u.status = setF s.status) ?_ k (.inl rfl)
  intro u hu
  rw [(crossLine_vblank u).2]
  split
  · obtain hu | hu := hu <;> rw [hu]
    · exact .inr rfl
    · exact .inr (setF_setF _)
  · exact hu

/-- The writers of the status register, with what each leaves there (R108, R540 to R542, R604, R810). -/
theorem status_writers {i : Instr} {s t : State} (h : exec i s = .next t) (hl : ∀ c, i ≠ .load c) :
    t.status = s.status ∨ ((∃ n, i = .tick n) ∧ t.status = setF s.status) ∨
      (i = .setSpriteOverflow ∧ t.status = setOvr s.status) ∨
      (i = .setSpriteCollision ∧ t.status = setCol s.status) ∨
      ((∃ p, i = .ioRdStatus p) ∧ t.status = clearFlags s.status) := by
  cases exec_effect h with
  | tick n k => exact (crossLines_status k s false).imp_right fun e => .inl ⟨⟨n, rfl⟩, e⟩
  | spriteOverflow => exact .inr (.inr (.inl ⟨rfl, rfl⟩))
  | spriteCollision => exact .inr (.inr (.inr (.inl ⟨rfl, rfl⟩)))
  | statusRead p => exact .inr (.inr (.inr (.inr ⟨⟨p, rfl⟩, rfl⟩)))
  | load c => exact absurd rfl (hl c)
  | _ => exact .inl rfl

/-- The clauses of O54 on the status register, read off its writers. -/
theorem status_bit_writers {i : Instr} {s t : State} (h : exec i s = .next t)
    (hl : ∀ c, i ≠ .load c) :
    (flagF s.status = false → flagF t.status = true → ∃ n, i = .tick n) ∧
    (flagOvr s.status = false → flagOvr t.status = true → i = .setSpriteOverflow) ∧
    (flagCol s.status = false → flagCol t.status = true → i = .setSpriteCollision) ∧
    (flagF s.status = true → flagF t.status = false → ∃ p, i = .ioRdStatus p) ∧
    (flagOvr s.status = true → flagOvr t.status = false → ∃ p, i = .ioRdStatus p) ∧
    (flagCol s.status = true → flagCol t.status = false → ∃ p, i = .ioRdStatus p) ∧
    t.status &&& 0x1F#8 = s.status &&& 0x1F#8 := by
  obtain e | ⟨⟨n, rfl⟩, e⟩ | ⟨rfl, e⟩ | ⟨rfl, e⟩ | ⟨⟨p, rfl⟩, e⟩ := status_writers h hl <;> rw [e]
  · simp +contextual
  · simp +contextual [setF_flags]
  · simp +contextual [setOvr_flags]
  · simp +contextual [setCol_flags]
  · simp +contextual [clearFlags_flags]

/-! ## VRAM, CRAM, the registers and the framebuffer -/

theorem vram_writer {i : Instr} {s t : State} (h : exec i s = .next t) (hl : ∀ c, i ≠ .load c)
    (hne : t.vram ≠ s.vram) : s.code ≠ 3#2 ∧ ∃ p v, i = .ioWrData p v := by
  cases exec_effect h with
  | dataWrite p v => exact ⟨fun hc => hne ((storeData_vram s v).trans (if_pos hc)), p, v, rfl⟩
  | load c => exact absurd rfl (hl c)
  | _ => exact absurd rfl hne

theorem cram_writer {i : Instr} {s t : State} (h : exec i s = .next t) (hl : ∀ c, i ≠ .load c)
    (hne : t.cram ≠ s.cram) : s.code = 3#2 ∧ ∃ p v, i = .ioWrData p v := by
  cases exec_effect h with
  | dataWrite p v =>
    exact ⟨by_contra fun hc => hne ((storeData_cram s v).trans (if_neg hc)), p, v, rfl⟩
  | load c => exact absurd rfl (hl c)
  | _ => exact absurd rfl hne

theorem regs_writer {i : Instr} {s t : State} (h : exec i s = .next t) (hl : ∀ c, i ≠ .load c)
    (hne : t.regs ≠ s.regs) : WritesRegister s i := by
  cases exec_effect h with
  | command a x c b g hx hg => exact hg.resolve_left hne
  | load c => exact absurd rfl (hl c)
  | _ => exact absurd rfl hne

theorem fb_writer {i : Instr} {s t : State} (h : exec i s = .next t) (hl : ∀ c, i ≠ .load c)
    (hne : t.fb ≠ s.fb) : ∃ n, i = .tick n := by
  cases exec_effect h with
  | tick n => exact ⟨n, rfl⟩
  | load c => exact absurd rfl (hl c)
  | _ => exact absurd rfl hne

/-- Settles O54, piece by piece. -/
theorem eachPieceOfVideoStateHasOneWriter : Obligations.EachPieceOfVideoStateHasOneWriter := by
  intro i s t h hl
  exact ⟨vram_writer h hl, cram_writer h hl, regs_writer h hl, fb_writer h hl, status_bit_writers h hl⟩

/-! ## The status invariant, the fault record and the configuration -/

theorem exec_keeps_statusLowZero {i : Instr} {s t : State} (hs : StatusLowZero s)
    (h : exec i s = .next t) : StatusLowZero t := by
  by_cases hl : ∃ c, i = .load c
  · obtain ⟨c, rfl⟩ := hl
    obtain ⟨_, _, _, rfl⟩ | ⟨_, rfl⟩ | rfl := load_next h
    · exact BitVec.zero_and
    · exact hs
    · exact hs
  · obtain ⟨_, _, _, _, _, _, low⟩ := status_bit_writers h fun c e => hl ⟨c, e⟩
    exact low.trans hs

theorem exec_keeps_faultStopsRun {i : Instr} {s t : State} (hs : FaultStopsRun s)
    (h : exec i s = .next t) : FaultStopsRun t := by
  cases exec_effect h with
  | load c =>
    obtain ⟨_, _, _, rfl⟩ | ⟨_, rfl⟩ | rfl := load_next h
    · exact fun hf => absurd rfl hf
    · exact fun _ => rfl
    · exact fun _ => rfl
  | _ => exact hs

theorem exec_keeps_configLoadable {i : Instr} {s t : State} (hs : ConfigLoadable s)
    (h : exec i s = .next t) : ConfigLoadable t := by
  cases exec_effect h with
  | load c =>
    obtain ⟨_, hb, hlen, rfl⟩ | ⟨_, rfl⟩ | rfl := load_next h
    · exact fun _ => checks_iff.mp ⟨hb, hlen⟩
    · exact nofun
    · exact nofun
  | _ => exact hs

/-- Settles O58, each of the three invariants by itself. -/
theorem stepsKeepStatusFaultAndConfiguration : Obligations.StepsKeepStatusFaultAndConfiguration := by
  rintro s t ⟨hst, hf, hc⟩ h
  exact ⟨step_keeps (fun _ _ k => k) exec_keeps_statusLowZero hst h,
    step_keeps (fun _ _ k => k) exec_keeps_faultStopsRun hf h,
    step_keeps (fun _ _ k => k) exec_keeps_configLoadable hc h⟩

/-! ## The state before any LOAD -/

theorem reset_memoriesCanonical : MemoriesCanonical State.reset :=
  ⟨fits_nil _, fits_nil _, fits_nil _, fits_nil _, fits_nil _⟩

/-- With no image and no byte listed, both sides of every clause of R431 read 0. -/
theorem reset_translationView : TranslationView State.reset := by
  have view : RomOnlyView State.reset := ⟨nofun, fun _ _ _ => rfl, fun _ _ _ => rfl⟩
  exact view

theorem reset_reg (n : Fin 16) : State.reset.reg n = 0#8 := Vector.getElem_replicate _

/-- Settles O60, field by field and invariant by invariant. -/
theorem resetIsIdleAndMeetsEveryInvariant : Obligations.ResetIsIdleAndMeetsEveryInvariant := by
  refine ⟨rfl, rfl, fun _ => ⟨rfl, rfl, rfl, rfl, rfl⟩, reset_reg, rfl, rfl, rfl, rfl, rfl, rfl, rfl,
    rfl, rfl, rfl, rfl, reset_memoriesCanonical, .inl (by decide), BitVec.zero_and, ?_, ?_, ?_,
    reset_translationView⟩
  · exact ⟨Nat.succ_pos _, linesPerFrame_pos _⟩
  · exact fun hf => absurd rfl hf
  · exact nofun

end Sys2Proof.Proofs
end

section
/-! SUPPORT. Non-influence of the stored registers (O55): every operation run on a block with such a register
changed answers the same, with the register changed. -/

namespace Sys2Proof.Proofs

open Machine Laws

/-! ## The stored registers are not read -/

/-- The registers that R103 calls "stored, no effect". -/
def StoredOnly (n : BitVec 4) : Prop := (3 ≤ n.toNat ∧ n.toNat ≤ 7) ∨ 10 ≤ n.toNat

section
variable {n : BitVec 4} (hn : StoredOnly n) (s : State) (v : Byte)
include hn

/-- The registers the block reads, 0 to 2, 8 and 9, are none of them. -/
theorem reg_setReg_stored (m : Fin 16) (hm : m.val ≤ 2 ∨ m.val = 8 ∨ m.val = 9) :
    (s.setReg n v).reg m = s.reg m := by
  rw [reg_setReg, if_neg]
  unfold StoredOnly at hn
  omega

theorem lineMode_setReg : (s.setReg n v).lineMode = s.lineMode := by
  unfold State.lineMode
  rw [reg_setReg_stored hn s v 0 (by decide), reg_setReg_stored hn s v 1 (by decide), setReg_config]

theorem hScroll_setReg (line : Nat) : (s.setReg n v).hScroll line = s.hScroll line := by
  unfold State.hScroll
  rw [reg_setReg_stored hn s v 0 (by decide), reg_setReg_stored hn s v 8 (by decide)]

theorem vScroll_setReg (x : Nat) : (s.setReg n v).vScroll x = s.vScroll x := by
  unfold State.vScroll
  rw [reg_setReg_stored hn s v 0 (by decide), reg_setReg_stored hn s v 9 (by decide)]

theorem bgX_setReg (line x : Nat) : (s.setReg n v).bgX line x = s.bgX line x := by
  unfold State.bgX
  rw [hScroll_setReg hn]

theorem bgY_setReg (line x : Nat) : (s.setReg n v).bgY line x = s.bgY line x := by
  unfold State.bgY
  rw [vScroll_setReg hn, lineMode_setReg hn]

theorem descAddr_setReg (line x : Nat) : (s.setReg n v).descAddr line x = s.descAddr line x := by
  unfold State.descAddr
  rw [reg_setReg_stored hn s v 2 (by decide), lineMode_setReg hn, bgX_setReg hn, bgY_setReg hn]

theorem bgPixel_setReg (line x : Nat) : (s.setReg n v).bgPixel line x = s.bgPixel line x := by
  unfold State.bgPixel
  rw [descAddr_setReg hn, bgX_setReg hn, bgY_setReg hn]
  rfl

theorem linePixel_setReg (line : Nat) : (s.setReg n v).linePixel line = s.linePixel line := by
  funext x
  unfold State.linePixel
  rw [reg_setReg_stored hn s v 1 (by decide), bgPixel_setReg hn, setReg_config]

theorem activeHeight_setReg : (s.setReg n v).activeHeight = s.activeHeight :=
  congrArg LineMode.height (lineMode_setReg hn s v)

theorem renderLine_setReg (line : Nat) :
    (s.setReg n v).renderLine line = (s.renderLine line).setReg n v := by
  unfold State.renderLine
  rw [activeHeight_setReg hn, linePixel_setReg hn]
  split <;> rfl

theorem crossLine_setReg :
    (s.setReg n v).crossLine = (s.crossLine.1.setReg n v, s.crossLine.2) := by
  have r : (s.setReg n v).advanceLine.renderLine (s.setReg n v).line =
      (s.advanceLine.renderLine s.line).setReg n v := renderLine_setReg hn s.advanceLine v s.line
  unfold State.crossLine
  rw [r]
  dsimp only
  rw [activeHeight_setReg hn, setReg_line]
  split <;> rfl

theorem crossLines_setReg (k : Nat) (b : Bool) :
    State.crossLines k (s.setReg n v) b =
      ((State.crossLines k s b).1.setReg n v, (State.crossLines k s b).2) := by
  induction k generalizing s b with
  | zero => rfl
  | succ k ih => rw [State.crossLines, State.crossLines, crossLine_setReg hn, ih]

end

/-! ## An outcome with a register changed -/

/-- The outcome with register `n` of its next state changed. -/
def outcomeSetReg (n : BitVec 4) (v : Byte) : Outcome → Outcome
  | .next t => .next (t.setReg n v)
  | .fault f => .fault f
  | .refused r => .refused r

theorem whileRunning_setReg (s : State) (n : BitVec 4) (v : Byte) (o : Outcome) :
    (s.setReg n v).whileRunning (outcomeSetReg n v o) = outcomeSetReg n v (s.whileRunning o) := by
  unfold State.whileRunning
  rw [setReg_running]
  split <;> rfl

theorem copyRomPage_outcome_setReg (s : State) (n : BitVec 4) (v p : Byte) (base : Nat) :
    (s.setReg n v).copyRomPage p base = outcomeSetReg n v (s.copyRomPage p base) := by
  unfold State.copyRomPage
  rw [setReg_config]
  split <;> rfl

theorem remapSlot2_setReg (s : State) (n : BitVec 4) (v : Byte) :
    (s.setReg n v).remapSlot2 = outcomeSetReg n v s.remapSlot2 := by
  unfold State.remapSlot2
  rw [setReg_ramCtl, setReg_slot2Page, copyRomPage_outcome_setReg]
  split <;> rfl

/-- An operation of one answer, run on the changed block. -/
theorem guarded_setReg {s u u' : State} {n : BitVec 4} {v : Byte} (e : u' = u.setReg n v) :
    (s.setReg n v).whileRunning (.next u') = outcomeSetReg n v (s.whileRunning (.next u)) := by
  subst e
  exact whileRunning_setReg s n v (.next u)

/-! ## The operations that write no register -/

theorem execMemWr_setReg (s : State) (n : BitVec 4) (x : Byte) (a : Word16) (v : Byte) :
    execMemWr a v (s.setReg n x) = outcomeSetReg n x (execMemWr a v s) := by
  unfold execMemWr
  rw [← whileRunning_setReg, setReg_config, setReg_ramCtl, romOnlyRamWrite_setReg,
    slot2RamWrite_setReg, segaRamWrite_setReg]
  congr 1
  cases s.config.mapperKind
  · dsimp only; split <;> rfl
  · dsimp only; split_ifs <;> rfl

theorem execMemWrFffc_setReg (s : State) (n : BitVec 4) (x v : Byte) :
    execMemWrFffc v (s.setReg n x) = outcomeSetReg n x (execMemWrFffc v s) := by
  unfold execMemWrFffc
  rw [← whileRunning_setReg, setReg_config, romOnlyRamWrite_setReg]
  congr 1
  cases s.config.mapperKind
  · rfl
  · exact remapSlot2_setReg { s.store 0xFFFC v with ramCtl := v } n x

theorem execMemWrFffd_setReg (s : State) (n : BitVec 4) (x v : Byte) :
    execMemWrFffd v (s.setReg n x) = outcomeSetReg n x (execMemWrFffd v s) := by
  unfold execMemWrFffd
  rw [← whileRunning_setReg, setReg_config, romOnlyRamWrite_setReg]
  cases s.config.mapperKind <;> rfl

theorem execMemWrFffe_setReg (s : State) (n : BitVec 4) (x v : Byte) :
    execMemWrFffe v (s.setReg n x) = outcomeSetReg n x (execMemWrFffe v s) := by
  unfold execMemWrFffe
  rw [← whileRunning_setReg, setReg_config, romOnlyRamWrite_setReg]
  congr 1
  cases s.config.mapperKind
  · rfl
  · exact copyRomPage_outcome_setReg { s.store 0xFFFE v with slot1Page := v } n x v 0x4000

theorem execMemWrFfff_setReg (s : State) (n : BitVec 4) (x v : Byte) :
    execMemWrFfff v (s.setReg n x) = outcomeSetReg n x (execMemWrFfff v s) := by
  have copy := copyRomPage_outcome_setReg { s.store 0xFFFF v with slot2Page := v } n x v 0x8000
  unfold execMemWrFfff
  rw [← whileRunning_setReg, setReg_config, setReg_ramCtl, romOnlyRamWrite_setReg]
  congr 1
  cases s.config.mapperKind
  · rfl
  · dsimp only
    split
    · rfl
    · exact copy

theorem storeData_setReg (s : State) (n : BitVec 4) (x v : Byte) :
    (s.setReg n x).storeData v = (s.storeData v).setReg n x := by
  unfold State.storeData
  rw [setReg_code]
  split <;> rfl

/-- The operations that write no register: all but LOAD and the two that can complete a register write. -/
def leavesRegisters : Instr → Bool
  | .load _ | .cmdRegWrite _ | .ioWrCtrl _ _ => false
  | _ => true

theorem tickLoop_setReg {n : BitVec 4} (hn : StoredOnly n) (s : State) (v : Byte) :
    (s.setReg n v).tickLoop = (s.tickLoop.1.setReg n v, s.tickLoop.2) := by
  unfold State.tickLoop
  rw [setReg_h, crossLines_setReg hn]
  rfl

theorem execTick_setReg {n : BitVec 4} (hn : StoredOnly n) (s : State) (v : Byte) (k : Nat) :
    execTick k (s.setReg n v) = outcomeSetReg n v (execTick k s) := by
  have e : ((s.setReg n v).addUnits k).tickLoop =
      ((s.addUnits k).tickLoop.1.setReg n v, (s.addUnits k).tickLoop.2) :=
    tickLoop_setReg hn (s.addUnits k) v
  unfold execTick
  rw [e]
  exact guarded_setReg rfl

/-- A register the block does not read changes no operation that writes none. -/
theorem exec_setReg {n : BitVec 4} (hn : StoredOnly n) (s : State) (v : Byte) {i : Instr}
    (hi : leavesRegisters i = true) :
    exec i (s.setReg n v) = outcomeSetReg n v (exec i s) := by
  cases i with
  | memWr a x => exact execMemWr_setReg s n v a x
  | memWrFffc x => exact execMemWrFffc_setReg s n v x
  | memWrFffd x => exact execMemWrFffd_setReg s n v x
  | memWrFffe x => exact execMemWrFffe_setReg s n v x
  | memWrFfff x => exact execMemWrFfff_setReg s n v x
  | ioRdVcount p =>
    refine guarded_setReg ?_
    rw [lineMode_setReg hn]
    rfl
  | readFb =>
    refine guarded_setReg ?_
    unfold State.frameBytes
    rw [lineMode_setReg hn, activeHeight_setReg hn]
    rfl
  | ioWrData p x =>
    refine guarded_setReg ?_
    have e := storeData_setReg s.clearPending n v x
    exact congrArg (fun u : State => State.advance { u with rbuf := x }) e
  | tick k => exact execTick_setReg hn s v k
  | load c | cmdRegWrite a | ioWrCtrl p x => cases hi
  | hostReserved5 | hostReserved67 => rfl
  | _ => exact guarded_setReg rfl

/-! ## Register writes and LOAD -/

theorem setReg_setReg_same (s : State) (n : BitVec 4) (v x : Byte) :
    (s.setReg n v).setReg n x = s.setReg n x := by
  unfold State.setReg
  rw [Vector.set_set]

theorem setReg_setReg_comm (s : State) {n m : BitVec 4} (h : m ≠ n) (v x : Byte) :
    (s.setReg n v).setReg m x = (s.setReg m x).setReg n v := by
  have hnm : n.toNat ≠ m.toNat := fun e => h (BitVec.eq_of_toNat_eq e.symm)
  unfold State.setReg
  rw [Vector.set_comm _ _ hnm]

/-- What a command word leaves in a register that held `v`. -/
def registerAfter (c : BitVec 2) (a : BitVec 14) (n : BitVec 4) (v : Byte) : Byte :=
  if c = 2#2 ∧ regNumber a = n then regValue a else v

theorem execCommand_setReg (s : State) (n : BitVec 4) (v : Byte) (c : BitVec 2) (a : BitVec 14) :
    (s.setReg n v).execCommand c a = (s.execCommand c a).setReg n (registerAfter c a n v) := by
  by_cases hc : c = 2#2
  · subst hc
    show ((s.loadCommand 2#2 a).setReg n v).setReg (regNumber a) (regValue a) =
      ((s.loadCommand 2#2 a).setReg (regNumber a) (regValue a)).setReg n (registerAfter 2#2 a n v)
    by_cases hr : regNumber a = n
    · rw [registerAfter, if_pos ⟨rfl, hr⟩, hr, setReg_setReg_same, setReg_setReg_same]
    · rw [registerAfter, if_neg (fun h => hr h.2), setReg_setReg_comm _ hr]
  · rw [registerAfter, if_neg (fun h => hc h.1)]
    obtain ⟨rfl, _⟩ | ⟨rfl, _⟩ | ⟨rfl, _⟩ | ⟨rfl, _⟩ := execCommand_cases s c a
    · rfl
    · rfl
    · exact absurd rfl hc
    · rfl

/-- REGN of a command word is bits 11:8 (R311). -/
theorem regNumber_toNat (a : BitVec 14) : (regNumber a).toNat = a.toNat / 256 % 16 := by
  rw [regNumber, BitVec.extractLsb'_toNat, Nat.shiftRight_eq_div_pow]

/-- REGN of a completed command word is the low nibble of its second byte (R310, R311). -/
theorem regNumber_commandWord_toNat (v f : Byte) :
    (regNumber (cmdAddr (commandWord v f))).toNat = v.toNat % 16 := by
  have hf := f.isLt
  rw [regNumber_toNat, cmdAddr, commandWord, BitVec.extractLsb'_toNat, BitVec.toNat_append,
    ← Nat.shiftLeft_add_eq_or_of_lt hf, Nat.shiftLeft_eq, Nat.shiftRight_eq_div_pow]
  omega

/-- LOAD resets every register, or leaves them all where a check fails. -/
theorem load_setReg {c : Configuration} {s t : State} (n : BitVec 4) (v : Byte)
    (h : exec (.load c) s = .next t) :
    ∃ w, exec (.load c) (s.setReg n v) = .next (t.setReg n w) := by
  have reset : ∀ u : State, (u.loaded c).setReg n 0#8 = u.loaded c := fun u => by
    have e : (Vector.replicate 16 0#8).set n.toNat 0#8 n.isLt = Vector.replicate 16 (0#8 : Byte) := by
      ext i hi
      simp
    exact congrArg (fun g => { u.loaded c with regs := g }) e
  change execLoad c s = .next t at h
  change ∃ w, execLoad c (s.setReg n v) = .next (t.setReg n w)
  unfold execLoad at h ⊢
  split_ifs at h ⊢ <;> cases h
  · exact ⟨0#8, by rw [reset]; rfl⟩
  · exact ⟨v, rfl⟩
  · exact ⟨v, rfl⟩
  · exact ⟨v, rfl⟩

/-- The second control byte runs the command word it completes (R500). -/
theorem ioWrCtrl_of_pending {p x : Byte} {s : State} (hr : s.running = true) (hp : s.pending = true) :
    exec (.ioWrCtrl p x) s = .next (s.clearPending.execCommand (cmdCode (commandWord x s.latchLo))
      (cmdAddr (commandWord x s.latchLo))) :=
  (whileRunning_of_running hr _).trans (if_pos hp)

/-- The first control byte is latched (R500). -/
theorem ioWrCtrl_of_not_pending {p x : Byte} {s : State} (hr : s.running = true)
    (hp : s.pending = false) : exec (.ioWrCtrl p x) s = .next (s.latchFirst x) :=
  (whileRunning_of_running hr _).trans (if_neg (by simp [hp]))

theorem ioWrCtrl_setReg {p x : Byte} {s t : State} (n : BitVec 4) (v : Byte)
    (h : exec (.ioWrCtrl p x) s = .next t) :
    ∃ w, exec (.ioWrCtrl p x) (s.setReg n v) = .next (t.setReg n w) ∧
      ((s.pending = true → x.toNat / 64 = 2 → x.toNat % 16 ≠ n.toNat) → w = v) := by
  obtain ⟨hr, ⟨hp, rfl⟩ | ⟨hp, rfl⟩⟩ := ioWrCtrl_next h
  · refine ⟨registerAfter (cmdCode (commandWord x s.latchLo)) (cmdAddr (commandWord x s.latchLo)) n v,
      ?_, fun hk => if_neg ?_⟩
    · rw [← execCommand_setReg]
      exact ioWrCtrl_of_pending (s := s.setReg n v) hr hp
    · rintro ⟨hc, hg⟩
      refine hk hp ?_ ?_
      · rw [← cmdCode_commandWord_toNat x s.latchLo, hc]; rfl
      · rw [← regNumber_commandWord_toNat x s.latchLo, hg]
  · exact ⟨v, ioWrCtrl_of_not_pending (s := s.setReg n v) hr hp, fun _ => rfl⟩

theorem cmdRegWrite_setReg {a : BitVec 14} {s t : State} (n : BitVec 4) (v : Byte)
    (h : exec (.cmdRegWrite a) s = .next t) :
    ∃ w, exec (.cmdRegWrite a) (s.setReg n v) = .next (t.setReg n w) ∧
      (a.toNat / 256 % 16 ≠ n.toNat → w = v) := by
  obtain ⟨hr, rfl⟩ := cmdRegWrite_next h
  refine ⟨registerAfter 2#2 a n v, ?_, fun hk => if_neg ?_⟩
  · rw [← execCommand_setReg]
    exact whileRunning_of_running (s := s.setReg n v) hr _
  · rintro ⟨_, hg⟩
    exact hk (by rw [← regNumber_toNat, hg])

/-- Settles O55: the operations that can write register `n` one by one, all others through `exec_setReg`. -/
theorem storedRegistersHaveNoEffect : Obligations.StoredRegistersHaveNoEffect := by
  intro n v i s t hn h
  cases hi : leavesRegisters i with
  | true =>
    refine ⟨v, ?_, fun _ _ _ => rfl⟩
    rw [exec_setReg hn s v hi, h]
    rfl
  | false =>
    cases i with
    | load c =>
      obtain ⟨w, hw⟩ := load_setReg n v h
      exact ⟨w, hw, fun hl => absurd rfl (hl c)⟩
    | cmdRegWrite a =>
      obtain ⟨w, hw, keeps⟩ := cmdRegWrite_setReg n v h
      exact ⟨w, hw, fun _ hk _ => keeps (hk a rfl)⟩
    | ioWrCtrl p x =>
      obtain ⟨w, hw, keeps⟩ := ioWrCtrl_setReg n v h
      exact ⟨w, hw, fun _ _ hk => keeps (hk p x rfl)⟩
    | _ => cases hi

end Sys2Proof.Proofs
end

section
/-! SUPPORT. The command word and the step read off their definitions: the fields that the two control bytes
give (O4), and the instruction that a step runs (O8). -/

namespace Sys2Proof.Proofs

open Machine Laws

/-! ## The fields of a completed command word -/

/-- The second control byte is the high one (R205). -/
theorem commandWord_toNat (v f : Byte) : (commandWord v f).toNat = v.toNat * 256 + f.toNat := by
  rw [commandWord, BitVec.toNat_append, ← Nat.shiftLeft_add_eq_or_of_lt f.isLt, Nat.shiftLeft_eq]

/-- ADDR of a command word is bits 13:0 (R311). -/
theorem cmdAddr_toNat (w : Word16) : (cmdAddr w).toNat = w.toNat % 2 ^ 14 :=
  BitVec.extractLsb'_toNat 0 14 w

/-- ADDR of a completed command word is bits 5:0 of its second byte over its first (R310, R311). -/
theorem cmdAddr_commandWord_toNat (v f : Byte) :
    (cmdAddr (commandWord v f)).toNat = v.toNat % 64 * 256 + f.toNat := by
  have hf := f.isLt
  rw [cmdAddr_toNat, commandWord_toNat]
  omega

/-- VAL of a command word is bits 7:0 (R311). -/
theorem regValue_toNat (a : BitVec 14) : (regValue a).toNat = a.toNat % 2 ^ 8 :=
  BitVec.extractLsb'_toNat 0 8 a

/-- VAL of a completed command word is its first byte (R310, R311). -/
theorem regValue_commandWord (v f : Byte) : regValue (cmdAddr (commandWord v f)) = f := by
  have hf := f.isLt
  apply BitVec.eq_of_toNat_eq
  rw [regValue_toNat, cmdAddr_commandWord_toNat]
  omega

/-- Settles O4, field by field. -/
theorem commandWordFieldsComeFromTheTwoBytes : Obligations.CommandWordFieldsComeFromTheTwoBytes :=
  fun v f =>
    ⟨cmdCode_commandWord_toNat v f, cmdAddr_commandWord_toNat v f, regNumber_commandWord_toNat v f,
      regValue_commandWord v f⟩

/-! ## The instruction that a step runs -/

/-- The first waiting operation is taken, and the instruction of its packet run (R230, R310). -/
theorem step_of_decode {s : State} {r : Request} {rest : List Request} {i : Instr}
    (hi : s.input = r :: rest) (hd : decode (assemble s.pending s.latchLo r) = .ok i) :
    step s = exec i { s with input := rest } := by
  simp only [step, hi, hd]

/-- With nothing waiting the block does nothing (R6). -/
theorem step_of_input_nil {s : State} (hi : s.input = []) : step s = .next s := by
  simp only [step, hi]

/-- Settles O8: the step with an operation waiting, and the idle step. -/
theorem stepRunsTheDecodedInstruction : Obligations.StepRunsTheDecodedInstruction :=
  ⟨fun _ _ _ _ hi hd => step_of_decode hi hd, fun _ hi => step_of_input_nil hi⟩

end Sys2Proof.Proofs
end

section
/-! SUPPORT. The decoder, said once for each kind of bus word (R301) in terms of the packed fields, and read
back: round trip (O1), operands in their rows (O2), the order of the table (O3), sample words (O5). -/

namespace Sys2Proof.Proofs

open Machine Laws

/-! ## The decoder on each kind of bus word -/

/-- Rows 7 to 12 of R301: the row of a port read. -/
def portRead (p : Byte) : Instr :=
  if portClass p = 1#2 then if portOdd p then .ioRdHcount p else .ioRdVcount p
  else if portClass p = 2#2 then if portOdd p then .ioRdStatus p else .ioRdData p
  else if portClass p = 0#2 then .ioRdIgnLo p
  else .ioRdIgnHi p

/-- Rows 13 to 17 of R301: the row of a port write. -/
def portWrite (p v : Byte) : Instr :=
  if portClass p = 1#2 then .ioWrCounter p v
  else if portClass p = 2#2 then if portOdd p then .ioWrCtrl p v else .ioWrData p v
  else if portClass p = 0#2 then .ioWrIgnLo p v
  else .ioWrIgnHi p v

@[simp] theorem decodeBus_memory_read (a : Word16) (d : Byte) :
    decodeBus (busWord 0#2 a d) = .memRd a := by
  simp [decodeBus]

@[simp] theorem decodeBus_memory_write (a : Word16) (v : Byte) :
    decodeBus (busWord 1#2 a v) = busWrite a v := by
  simp [decodeBus, busWrite]

@[simp] theorem decodeBus_port_read (a : Word16) (d : Byte) :
    decodeBus (busWord 2#2 a d) = portRead (a.setWidth 8) := by
  simp [decodeBus, portRead]

@[simp] theorem decodeBus_port_write (a : Word16) (v : Byte) :
    decodeBus (busWord 3#2 a v) = portWrite (a.setWidth 8) v := by
  simp [decodeBus, portWrite]

/-- The four values of a two-bit field: K, a port's class, CODE. -/
theorem twoBits_cases (c : BitVec 2) : c = 0#2 ∨ c = 1#2 ∨ c = 2#2 ∨ c = 3#2 := by
  revert c; decide

/-- What holds of each kind's packed words holds of every bus word. -/
theorem busWord_cases {P : BusWord → Prop} (memRead : ∀ a d, P (busWord 0#2 a d))
    (memWrite : ∀ a v, P (busWord 1#2 a v)) (portRead : ∀ a d, P (busWord 2#2 a d))
    (portWrite : ∀ a v, P (busWord 3#2 a v)) (w : BusWord) : P w := by
  rw [← busWord_fields w]
  obtain h | h | h | h := twoBits_cases (busKind w) <;> rw [h]
  · exact memRead _ _
  · exact memWrite _ _
  · exact portRead _ _
  · exact portWrite _ _

@[simp] theorem decodeCommand_mkCommand (c : BitVec 2) (a : BitVec 14) :
    decodeCommand (mkCommand c a) =
      if c = 0#2 then .cmdVramRead a else if c = 1#2 then .cmdVramWrite a
      else if c = 2#2 then .cmdRegWrite a else .cmdCramWrite a := by
  simp [decodeCommand]

/-! ## Round trip -/

/-- No control-byte row takes an address below 0xFFFC (R301). -/
theorem busWrite_of_lt {a : Word16} (h : a < 0xFFFC#16) (v : Byte) : busWrite a v = .memWr a v := by
  have hne : ∀ b : Word16, 0xFFFC#16 ≤ b → a ≠ b := fun b hb e => BitVec.not_le.mpr h (e ▸ hb)
  rw [busWrite, if_neg (hne _ (by decide)), if_neg (hne _ (by decide)), if_neg (hne _ (by decide)),
    if_neg (hne _ (by decide))]

/-- A port-read row decodes as the row that its port selects. -/
theorem decode_encode_portRead {i : Instr} (p : Byte)
    (he : encode i = .bus (busWord 2#2 (portAddr p) 0#8)) (hr : portRead p = i) :
    decode (encode i) = .ok i := by
  rw [he, decode, decodeBus_port_read, setWidth_portAddr, hr]

theorem decode_encode_portWrite {i : Instr} (p v : Byte)
    (he : encode i = .bus (busWord 3#2 (portAddr p) v)) (hr : portWrite p v = i) :
    decode (encode i) = .ok i := by
  rw [he, decode, decodeBus_port_write, setWidth_portAddr, hr]

/-- Settles O1, row by row: memory rows by address, port rows by class and parity, command words by code. -/
theorem decodeOfEncodeIsTheInstruction : Obligations.DecodeOfEncodeIsTheInstruction := by
  intro i h
  cases i with
  | memRd a => simp [encode, decode]
  | memWrFffc v | memWrFffd v | memWrFffe v | memWrFfff v => simp [encode, decode, busWrite]
  | memWr a v => simp [encode, decode, busWrite_of_lt (of_decide_eq_true h)]
  | ioRdVcount p | ioRdHcount p | ioRdData p | ioRdStatus p | ioRdIgnLo p | ioRdIgnHi p =>
    refine decode_encode_portRead p rfl ?_
    simp only [Instr.WellFormed, Instr.wf, Bool.and_eq_true, beq_iff_eq, Bool.not_eq_true'] at h
    simp [portRead, h]
  | ioWrCounter p v | ioWrData p v | ioWrCtrl p v | ioWrIgnLo p v | ioWrIgnHi p v =>
    refine decode_encode_portWrite p v rfl ?_
    simp only [Instr.WellFormed, Instr.wf, Bool.and_eq_true, beq_iff_eq, Bool.not_eq_true'] at h
    simp [portWrite, h]
  | cmdVramRead a | cmdVramWrite a | cmdRegWrite a | cmdCramWrite a => simp [encode, decode]
  | hostReserved67 low => cases low <;> rfl
  | tick | setSpriteOverflow | setSpriteCollision | load | readFb | hostReserved5 => rfl

/-! ## Operands in their rows -/

/-- The MEM_WR row is left with the addresses below 0xFFFC. -/
theorem busWrite_wellFormed (a : Word16) (v : Byte) : (busWrite a v).WellFormed := by
  unfold busWrite
  split_ifs with hc hd he hf
  · rfl
  · rfl
  · rfl
  · rfl
  · refine decide_eq_true ?_
    bv_omega

theorem portRead_wellFormed (p : Byte) : (portRead p).WellFormed := by
  obtain h | h | h | h := twoBits_cases (portClass p) <;> cases ho : portOdd p <;>
    simp [portRead, Instr.WellFormed, Instr.wf, h, ho]

theorem portWrite_wellFormed (p v : Byte) : (portWrite p v).WellFormed := by
  obtain h | h | h | h := twoBits_cases (portClass p) <;> cases ho : portOdd p <;>
    simp [portWrite, Instr.WellFormed, Instr.wf, h, ho]

theorem decodeBus_wellFormed (w : BusWord) : (decodeBus w).WellFormed := by
  induction w using busWord_cases with
  | memRead a d => rw [decodeBus_memory_read]; rfl
  | memWrite a v => rw [decodeBus_memory_write]; exact busWrite_wellFormed a v
  | portRead a d => rw [decodeBus_port_read]; exact portRead_wellFormed _
  | portWrite a v => rw [decodeBus_port_write]; exact portWrite_wellFormed _ v

theorem decodeCommand_wellFormed (w : Word16) : (decodeCommand w).WellFormed := by
  unfold decodeCommand
  split_ifs <;> rfl

/-- No host row restricts its operand (R315). -/
theorem decodeHost_wellFormed {op : BitVec 3} {arg : HostArg} {i : Instr}
    (h : decodeHost op arg = .ok i) : i.WellFormed := by
  unfold decodeHost at h
  split_ifs at h <;> cases arg <;> cases h <;> rfl

/-- Settles O2, format by format. -/
theorem decodedInstructionsAreWellFormed : Obligations.DecodedInstructionsAreWellFormed := by
  intro p i h
  cases p with
  | bus w => cases h; exact decodeBus_wellFormed w
  | cmd w => cases h; exact decodeCommand_wellFormed w
  | host op arg => exact decodeHost_wellFormed h

/-! ## The table's order -/

/-- The shapes of the bus rows of R301: a memory row fixes K alone. -/
def kindRow (k : BitVec 2) : TableRow := ⟨26, busWord 3#2 0#16 0#8, busWord k 0#16 0#8⟩

/-- A control-byte row fixes K = 1 and the address. -/
def addressRow (a : Word16) : TableRow := ⟨26, busWord 3#2 0xFFFF#16 0#8, busWord 1#2 a 0#8⟩

/-- A port row fixes K and the port's class. -/
def classRow (k c : BitVec 2) : TableRow :=
  ⟨26, busWord 3#2 0xC0#16 0#8, busWord k (c.setWidth 16 <<< 6) 0#8⟩

/-- The counter, data and control rows fix the port's parity too. -/
def parityRow (k c : BitVec 2) (odd : Bool) : TableRow :=
  ⟨26, busWord 3#2 0xC1#16 0#8,
    busWord k (c.setWidth 16 <<< 6 ||| if odd then 1#16 else 0#16) 0#8⟩

theorem busTable_eq : busTable =
    [kindRow 0#2, addressRow 0xFFFC#16, addressRow 0xFFFD#16, addressRow 0xFFFE#16,
      addressRow 0xFFFF#16, kindRow 1#2, parityRow 2#2 1#2 false, parityRow 2#2 1#2 true,
      parityRow 2#2 2#2 false, parityRow 2#2 2#2 true, classRow 2#2 0#2, classRow 2#2 3#2,
      classRow 3#2 1#2, parityRow 3#2 2#2 false, parityRow 3#2 2#2 true, classRow 3#2 0#2,
      classRow 3#2 3#2] := by decide

theorem busWord_inj {k k' : BitVec 2} {a a' : Word16} {d d' : Byte} :
    busWord k a d = busWord k' a' d' ↔ k = k' ∧ a = a' ∧ d = d' := by
  refine ⟨fun h => ⟨?_, ?_, ?_⟩, fun ⟨hk, ha, hd⟩ => by rw [hk, ha, hd]⟩
  · simpa using congrArg busKind h
  · simpa using congrArg busAddr h
  · simpa using congrArg busData h

/-- A row that fixes no data bits matches by K and A. -/
theorem matchesWord_fields (k mk pk : BitVec 2) (a ma pa : Word16) (d : Byte) :
    (TableRow.mk 26 (busWord mk ma 0#8) (busWord pk pa 0#8)).matchesWord (busWord k a d) =
      decide (k &&& mk = pk ∧ a &&& ma = pa) := by
  rw [TableRow.matchesWord, RowMatch.busWord_and k mk _ a ma _ d 0#8 0#8 rfl rfl (by simp),
    beq_eq_decide, decide_eq_decide, busWord_inj]
  simp

theorem kind_mask (k : BitVec 2) : k &&& 3#2 = k := by
  revert k; decide

@[simp] theorem kindRow_matchesWord (k k' : BitVec 2) (a : Word16) (d : Byte) :
    (kindRow k').matchesWord (busWord k a d) = decide (k = k') := by
  simp [kindRow, matchesWord_fields, kind_mask]

@[simp] theorem addressRow_matchesWord (k : BitVec 2) (a a' : Word16) (d : Byte) :
    (addressRow a').matchesWord (busWord k a d) = decide (k = 1#2 ∧ a = a') := by
  have hm : a &&& 0xFFFF#16 = a := BitVec.and_allOnes
  simp [addressRow, matchesWord_fields, kind_mask, hm]

/-- The port of a bus address is its low byte. -/
theorem portAddr_setWidth (a : Word16) : portAddr (a.setWidth 8) = a &&& 0xFF#16 := by
  apply BitVec.eq_of_toNat_eq
  rw [BitVec.toNat_and, portAddr, BitVec.toNat_append, BitVec.toNat_setWidth]
  simpa using (Nat.and_two_pow_sub_one_eq_mod a.toNat 8).symm

/-- A mask on the port number reads the port alone. -/
theorem and_eq_portAddr_and (a : Word16) {m : Word16} (hm : 0xFF#16 &&& m = m) :
    a &&& m = portAddr (a.setWidth 8) &&& m := by
  rw [portAddr_setWidth, BitVec.and_assoc, hm]

theorem classBits_inj : ∀ c c' : BitVec 2,
    c.setWidth 16 <<< 6 = (c'.setWidth 16 <<< 6 : Word16) ↔ c = c' := by decide

theorem parityBits_inj : ∀ (c c' : BitVec 2) (odd odd' : Bool),
    (c.setWidth 16 <<< 6 ||| if odd then 1#16 else 0#16) =
      (c'.setWidth 16 <<< 6 ||| if odd' then 1#16 else 0#16) ↔ c = c' ∧ odd = odd' := by decide

@[simp] theorem classRow_matchesWord (k k' c : BitVec 2) (a : Word16) (d : Byte) :
    (classRow k' c).matchesWord (busWord k a d) =
      decide (k = k' ∧ portClass (a.setWidth 8) = c) := by
  rw [classRow, matchesWord_fields, kind_mask, and_eq_portAddr_and a (by decide),
    RowMatch.port_class _ _ rfl]
  simp only [classBits_inj]

@[simp] theorem parityRow_matchesWord (k k' c : BitVec 2) (odd : Bool) (a : Word16) (d : Byte) :
    (parityRow k' c odd).matchesWord (busWord k a d) =
      decide (k = k' ∧ portClass (a.setWidth 8) = c ∧ portOdd (a.setWidth 8) = odd) := by
  rw [parityRow, matchesWord_fields, kind_mask, and_eq_portAddr_and a (by decide),
    RowMatch.port_parity _ _ _ rfl rfl]
  simp only [parityBits_inj]

/-- The first row that a memory write matches is that of its address. -/
theorem find_memory_write (a : Word16) (v : Byte) :
    busTable.find? (fun r => r.matchesWord (busWord 1#2 a v)) = some (busWrite a v).tableRow := by
  rw [busTable_eq, busWrite]
  split_ifs with hc hd he hf
  · simp [hc]; rfl
  · simp [hd]; rfl
  · simp [he]; rfl
  · simp [hf]; rfl
  · simp [hc, hd, he, hf]; rfl

theorem find_port_read (a : Word16) (d : Byte) :
    busTable.find? (fun r => r.matchesWord (busWord 2#2 a d)) =
      some (portRead (a.setWidth 8)).tableRow := by
  rw [busTable_eq]
  obtain h | h | h | h := twoBits_cases (portClass (a.setWidth 8)) <;>
    cases ho : portOdd (a.setWidth 8) <;> simp [portRead, h, ho] <;> rfl

theorem find_port_write (a : Word16) (v : Byte) :
    busTable.find? (fun r => r.matchesWord (busWord 3#2 a v)) =
      some (portWrite (a.setWidth 8) v).tableRow := by
  rw [busTable_eq]
  obtain h | h | h | h := twoBits_cases (portClass (a.setWidth 8)) <;>
    cases ho : portOdd (a.setWidth 8) <;> simp [portWrite, h, ho] <;> rfl

/-- Settles O3, kind by kind. -/
theorem busWordsDecodeByFirstMatchingRow : Obligations.BusWordsDecodeByFirstMatchingRow := by
  intro w
  induction w using busWord_cases with
  | memRead a d =>
    rw [decodeBus_memory_read, busTable_eq]
    exact List.find?_cons_of_pos (by simp)
  | memWrite a v => rw [decodeBus_memory_write, find_memory_write]
  | portRead a d => rw [decodeBus_port_read, find_port_read]
  | portWrite a v => rw [decodeBus_port_write, find_port_write]

/-- Settles O5: each word computes. -/
theorem sampleWordsDecode : Obligations.SampleWordsDecode := by
  refine ⟨?_, ?_, ?_, ?_, ?_, ?_, ?_, rfl⟩ <;> decide

end Sys2Proof.Proofs
end

section
/-! SUPPORT. The two bytes of a command through the control port: what `pending` makes of each (O9), and the
pseudo-operations that write them (O40). -/

namespace Sys2Proof.Proofs

open Machine Laws

/-! ## The control port's packets -/

/-- Row 15 of R301, on the packed fields. -/
theorem isControlWrite_busWord (k : BitVec 2) (a : Word16) (d : Byte) :
    isControlWrite (busWord k a d) = true ↔
      k = 3#2 ∧ portClass (a.setWidth 8) = 2#2 ∧ portOdd (a.setWidth 8) = true := by
  simp [isControlWrite, and_assoc]

theorem assemble_second_byte {w : BusWord} (hw : isControlWrite w = true) (lo : Byte) :
    assemble true lo (.bus w) = .cmd (commandWord (busData w) lo) := by
  rw [assemble, hw]; rfl

theorem assemble_bus_of_not_control {w : BusWord} (hw : ¬ isControlWrite w = true) (pend : Bool)
    (lo : Byte) :
    assemble pend lo (.bus w) = .bus w := by
  rw [assemble, Bool.eq_false_of_not_eq_true hw, Bool.and_false]; rfl

/-- Settles O9: a control write under each value of `pending`, and every other transaction. -/
theorem pendingAloneDecidesTheSecondByte : Obligations.PendingAloneDecidesTheSecondByte := by
  intro hi p v lo k a d pend
  refine ⟨fun hc ho => ⟨?_, ?_⟩, fun hne => ?_⟩
  · have hw : isControlWrite (busWord 3#2 (hi ++ p) v) = true :=
      (isControlWrite_busWord _ _ _).mpr
        ⟨rfl, by rwa [BitVec.setWidth_append_eq_right], by rwa [BitVec.setWidth_append_eq_right]⟩
    rw [assemble_second_byte hw, busData_busWord]
    rfl
  · show Except.ok (decodeBus (busWord 3#2 (hi ++ p) v)) = _
    rw [decodeBus_port_write, BitVec.setWidth_append_eq_right]
    simp [portWrite, hc, ho]
  · refine assemble_bus_of_not_control (fun hw => ?_) pend lo
    obtain ⟨hk, hc, ho⟩ := (isControlWrite_busWord k a d).mp hw
    simp [hk, hc, ho] at hne

/-! ## Two control bytes -/

/-- From `pending` = 0 two writes to port 0xBF run the command word they make (R310, R500). -/
theorem run_two_control_bytes {s : State} {rest : List Request} (f v : Byte) (hr : s.running = true)
    (hp : s.pending = false) (hi : s.input = reqOut 0xBF#8 f :: reqOut 0xBF#8 v :: rest) :
    Host.Core.run Sys2Proof.core 2 s =
      exec (decodeCommand (commandWord v f)) { s with input := rest, latchLo := f, pending := true } := by
  have hw : isControlWrite (busWord 3#2 (portAddr 0xBF#8) v) = true :=
    (isControlWrite_busWord _ _ v).mpr (by decide)
  have first : step s = .next { s with
      input := reqOut 0xBF#8 v :: rest, latchLo := f, pending := true } := by
    rw [step_bus hi (by rw [hp, Bool.false_and]), decodeBus_port_write, setWidth_portAddr]
    exact ioWrCtrl_of_not_pending hr hp
  have second := step_second_byte (w := busWord 3#2 (portAddr 0xBF#8) v) (rest := rest)
    (s := { s with input := reqOut 0xBF#8 v :: rest, latchLo := f, pending := true }) rfl rfl hw
  rw [busData_busWord] at second
  exact (run_next (M := Sys2Proof.core) first).trans ((run_one _).trans second)

/-- The two bytes of VDPCMD make its command word (R346). -/
theorem commandWord_pseudoVdpCmd (c : BitVec 2) (a : BitVec 14) :
    commandWord (c ++ (a.extractLsb' 8 6 : BitVec 6)) (a.extractLsb' 0 8) = c ++ a := by
  apply BitVec.eq_of_getLsbD_eq
  intro i hi
  rw [getLsbD_commandWord]
  simp only [BitVec.getLsbD_append, BitVec.getLsbD_extractLsb']
  grind

/-- The second byte of VDPREG carries its register's number (R346). -/
theorem vdpReg_byte_toNat (n : BitVec 4) : (0x80#8 ||| n.setWidth 8 : Byte).toNat = 128 + n.toNat := by
  revert n; decide

/-- Settles O40: both runs are that of a command word, whose fields are those of the pseudo-operation. -/
theorem pseudoOperationsExpandCorrectly : Obligations.PseudoOperationsExpandCorrectly := by
  intro n v c a rest s hr hp
  refine ⟨fun hi => ?_, fun hi => ?_⟩
  · have hn := n.isLt
    have code : cmdCode (commandWord (0x80#8 ||| n.setWidth 8) v) = 2#2 :=
      BitVec.eq_of_toNat_eq (by rw [cmdCode_commandWord_toNat, vdpReg_byte_toNat]; change _ = 2; omega)
    have number : regNumber (cmdAddr (commandWord (0x80#8 ||| n.setWidth 8) v)) = n :=
      BitVec.eq_of_toNat_eq (by rw [regNumber_commandWord_toNat, vdpReg_byte_toNat]; omega)
    rw [run_two_control_bytes _ _ hr hp hi, exec_decodeCommand, code,
      whileRunning_of_running (by exact hr)]
    refine ⟨_, rfl, rfl, fun m => ?_⟩
    show ((State.loadCommand _ _ _).setReg _ _).reg m = _
    rw [reg_setReg, number, regValue_commandWord]
    rfl
  · rw [run_two_control_bytes _ _ hr hp hi, commandWord_pseudoVdpCmd]
    rfl

end Sys2Proof.Proofs
end

section
/-! SUPPORT. The header read off its definition, as the tables of R335 and R402 have it, and LOAD's checks in
their order (O50). -/

namespace Sys2Proof.Proofs

open Machine Laws

/-! ## The header offset -/

/-- The three offsets, tried in order (R335). -/
theorem headerOffset_eq (rom : List Byte) : headerOffset rom =
    if signatureAt rom 0x7FF0 then some 0x7FF0 else if signatureAt rom 0x3FF0 then some 0x3FF0
    else if signatureAt rom 0x1FF0 then some 0x1FF0 else none := by
  simp only [headerOffset, List.find?_cons, List.find?_nil]
  cases signatureAt rom 0x7FF0 <;> cases signatureAt rom 0x3FF0 <;> cases signatureAt rom 0x1FF0 <;> rfl

/-- What each header offset, and the lack of one, says of the image (R335, C11). -/
theorem headerOffset_facts (rom : List Byte) :
    (headerOffset rom = some 0x7FF0 ↔ HoldsSignature rom 0x7FF0) ∧
    (headerOffset rom = some 0x3FF0 ↔ HoldsSignature rom 0x3FF0 ∧ ¬ HoldsSignature rom 0x7FF0) ∧
    (headerOffset rom = some 0x1FF0 ↔ HoldsSignature rom 0x1FF0 ∧ ¬ HoldsSignature rom 0x7FF0 ∧
      ¬ HoldsSignature rom 0x3FF0) ∧
    (headerOffset rom = none ↔ ¬ HasSignature rom) := by
  rw [headerOffset_eq]
  simp only [HasSignature, ← signatureAt_iff]
  split_ifs with h7 h3 h1
  · simp [h7]
  · simp [h7, h3]
  · simp [h7, h3, h1]
  · simp [h7, h3, h1]

/-- A ROM is valid exactly when it has a signature (R403). -/
theorem romValid_iff {rom : List Byte} : romValid rom = true ↔ HasSignature rom := by
  obtain ⟨_, _, _, absent⟩ := headerOffset_facts rom
  rw [romValid, Option.isSome_iff_ne_none, Ne, absent, not_not]

theorem sizeRegionByte_of_header {rom : List Byte} {o : Nat} (h : headerOffset rom = some o) :
    sizeRegionByte rom = rom[o + 15]? := by
  rw [sizeRegionByte, h]

theorem sizeRegionByte_of_no_header {rom : List Byte} (h : headerOffset rom = none) :
    sizeRegionByte rom = none := by
  rw [sizeRegionByte, h]

theorem sizeCode_toNat (b : Byte) : (sizeCode b).toNat = b.toNat % 16 :=
  BitVec.extractLsb'_toNat 0 4 b

theorem regionCode_toNat (b : Byte) : (regionCode b).toNat = b.toNat / 16 := by
  have hb := b.isLt
  rw [regionCode, BitVec.extractLsb'_toNat, Nat.shiftRight_eq_div_pow]
  omega

/-! ## The tables of R335 and R402 -/

/-- In a table without repeated keys, a key is looked up as exactly the value it stands with. -/
theorem lookup_eq_some_iff_mem {β : Type} {table : List (Nat × β)} (hk : (table.map Prod.fst).Nodup)
    (k : Nat) (v : β) : table.lookup k = some v ↔ (k, v) ∈ table := by
  induction table with
  | nil => simp
  | cons row rest ih =>
    obtain ⟨k', v'⟩ := row
    obtain ⟨hne, hrest⟩ := List.nodup_cons.mp hk
    by_cases h : k = k'
    · have absent : (k, v) ∉ rest := fun hm => hne (List.mem_map.mpr ⟨(k, v), hm, h⟩)
      subst h
      simp [absent, eq_comm]
    · rw [List.lookup_cons, beq_eq_false_iff_ne.mpr h, List.mem_cons]
      simp [ih hrest, h]

/-- The sizes of R335 by size code. -/
def sizeTable : List (Nat × Nat) :=
  [(0x0, 256 * 1024), (0x1, 512 * 1024), (0x2, 1024 * 1024), (0xA, 8 * 1024), (0xB, 16 * 1024),
    (0xC, 32 * 1024), (0xD, 48 * 1024), (0xE, 64 * 1024), (0xF, 128 * 1024)]

theorem sizeOfCode_eq_lookup : ∀ c : BitVec 4, sizeOfCode c = sizeTable.lookup c.toNat := by decide

/-- The regions of R335 by region code. -/
def regionTable : List (Nat × HeaderRegion) :=
  [(3, .smsJapan), (4, .smsExport), (5, .ggJapan), (6, .ggExport), (7, .ggInternational)]

theorem regionOfCode_eq_lookup : ∀ c : BitVec 4, regionOfCode c = regionTable.lookup c.toNat := by decide

/-- The bank counts of R402 by size code. -/
def bankCountTable : List (Nat × Nat) :=
  [(0xA, 1), (0xB, 1), (0xC, 2), (0xD, 3), (0xE, 4), (0xF, 8), (0x0, 16), (0x1, 32), (0x2, 64)]

theorem deriveBankCount_eq_lookup : ∀ c : BitVec 4,
    deriveBankCount c = bankCountTable.lookup c.toNat := by decide

/-! ## LOAD's checks -/

theorem load_of_no_signature {c : Configuration} (h : ¬ HasSignature c.rom) (s : State) :
    exec (.load c) s = .next { s with running := false } :=
  if_neg (mt romValid_iff.mp h)

theorem load_of_bad_bankCount {c : Configuration} (hv : HasSignature c.rom)
    (hb : ¬ bankCheck c = true) (s : State) :
    exec (.load c) s = .next (s.recordFault (.bankCountNotPow2 c.bankCount)) :=
  (if_pos (romValid_iff.mpr hv)).trans (if_neg hb)

theorem load_of_bad_length {c : Configuration} (hv : HasSignature c.rom) (hb : bankCheck c = true)
    (hl : ¬ lengthCheck c = true) (s : State) :
    exec (.load c) s = .next (s.recordFault (.romSizeMismatch c.rom.length)) :=
  (if_pos (romValid_iff.mpr hv)).trans ((if_pos hb).trans (if_neg hl))

/-- Under SegaBanked the bank count must be a power of two (R401). -/
theorem bankCheck_iff_of_sega {c : Configuration} (hk : c.mapperKind = .segaBanked) :
    bankCheck c = true ↔ ∃ k, c.bankCount = 2 ^ k := by
  rw [bankCheck, hk]
  exact bankCountOk_iff

theorem bankCheck_of_romOnly {c : Configuration} (hk : c.mapperKind = .romOnly) :
    bankCheck c = true := by
  rw [bankCheck, hk]

theorem lengthCheck_iff_of_sega {c : Configuration} (hk : c.mapperKind = .segaBanked) :
    lengthCheck c = true ↔ c.rom.length = c.bankCount * 0x4000 := by
  rw [lengthCheck, hk]
  exact decide_eq_true_iff

theorem lengthCheck_iff_of_romOnly {c : Configuration} (hk : c.mapperKind = .romOnly) :
    lengthCheck c = true ↔ c.rom.length ≤ 0xC000 := by
  rw [lengthCheck, hk]
  exact decide_eq_true_iff

/-- Settles O50: the header, the three tables, and LOAD under each check that can fail. -/
theorem loadRejectsInTheOrderOfItsChecks : Obligations.LoadRejectsInTheOrderOfItsChecks := by
  refine ⟨fun rom => ?_, fun b => ⟨sizeCode_toNat b, regionCode_toNat b⟩, fun c size => ?_, fun c r => ?_,
    fun c bc => ?_, fun c s => ⟨fun h => load_of_no_signature h s, ?_, ?_, ?_⟩⟩
  · obtain ⟨at7, at3, at1, absent⟩ := headerOffset_facts rom
    exact ⟨romValid_iff, at7, at3, at1, absent, fun _ => sizeRegionByte_of_header,
      sizeRegionByte_of_no_header⟩
  · rw [sizeOfCode_eq_lookup]
    exact lookup_eq_some_iff_mem (by decide) _ _
  · rw [regionOfCode_eq_lookup]
    exact lookup_eq_some_iff_mem (by decide) _ _
  · rw [deriveBankCount_eq_lookup]
    exact lookup_eq_some_iff_mem (by decide) _ _
  · intro hv hk hb
    refine load_of_bad_bankCount hv (fun hc => ?_) s
    obtain ⟨k, e⟩ := (bankCheck_iff_of_sega hk).mp hc
    exact hb k e
  · intro hv hk hb hl
    exact load_of_bad_length hv ((bankCheck_iff_of_sega hk).mpr hb)
      (mt (lengthCheck_iff_of_sega hk).mp hl) s
  · intro hv hk hl
    exact load_of_bad_length hv (bankCheck_of_romOnly hk)
      (mt (lengthCheck_iff_of_romOnly hk).mp (Nat.not_le.mpr hl)) s

end Sys2Proof.Proofs
end

section
/-! SUPPORT. What each memory transaction answers and leaves in MEM, SRAM and the mapper registers, said once
per row and mapper (O13 to O23). -/

namespace Sys2Proof.Proofs

open Machine Laws

/-! ## What the mapper's writes leave -/

/-- RAMPG as an offset into SRAM (R320, R423). -/
theorem ramPage_mul (c : Byte) (n : Nat) : ramPage c * n = if c.getLsbD 2 then n else 0 := by
  unfold ramPage; cases c.getLsbD 2 <;> simp

/-- A control byte stored above the slots and a page of the image copied into one of them (R424, R430). -/
theorem read_write_blit_romPage {c : Configuration} {p : Byte} {base k : Nat}
    (hp : pageInImage c (pageOf c p) = true) (hk : base + 0x4000 ≤ k) (m : Memory) (v : Byte)
    (b : Nat) :
    ((m.write k v).blit base (romPage c.rom (pageOf c p))).read b =
      if b = k then v
      else if base ≤ b ∧ b < base + 0x4000 then romByte c (pageOf c p * 0x4000 + (b - base))
      else m.read b := by
  rw [read_blit_romPage hp, read_write]
  by_cases h : b = k
  · rw [if_neg (by omega), if_pos h, if_pos h]
  · rw [if_neg h, if_neg h]; rfl

/-- 0xFFFC stored and a cartridge-RAM page mapped into slot 2 (R422, R423). -/
theorem copySramPage_read (s : State) (v : Byte) (b : Nat) :
    (State.copySramPage { s.store 0xFFFC v with ramCtl := v }).mem.read b =
      if b = 0xFFFC then v
      else if 0x8000 ≤ b ∧ b < 0x8000 + s.config.sramSize then
        s.sram.read (ramPage v * s.config.sramSize + (b - 0x8000))
      else s.mem.read b := by
  have hS := sramSize_le s.config
  show ((s.mem.write 0xFFFC v).copyIn 0x8000 s.config.sramSize s.sram
    (ramPage v * s.config.sramSize)).read b = _
  rw [read_copyIn, read_write]
  by_cases h : b = 0xFFFC
  · rw [if_neg (by omega), if_pos h, if_pos h]
  · rw [if_neg h, if_neg h]

/-- What Slot2RamWrite leaves in SRAM (R412). -/
theorem slot2RamWrite_sram_read (s : State) (a : Word16) (v : Byte) (b : Nat) :
    (s.slot2RamWrite a v).sram.read b =
      if a.toNat - 0x8000 < s.config.sramSize ∧
        b = ramPage s.ramCtl * s.config.sramSize + (a.toNat - 0x8000)
      then v else s.sram.read b := by
  rw [slot2RamWrite_sram]
  by_cases h : a.toNat - 0x8000 < s.config.sramSize
  · simp [h, read_write]
  · simp [h]

/-! ## MEM_RD and MEM_WR -/

section
variable {s : State} (hr : s.running = true)
include hr

theorem exec_memRd (a : Word16) :
    exec (.memRd a) s = .next { s with reply := .byte (s.mem.read a.toNat) } :=
  whileRunning_of_running hr _

/-- MEM_WR under RomOnly: dropped below the RAM (R411, R415). -/
theorem exec_memWr_of_romOnly (hk : s.config.mapperKind = .romOnly) (a : Word16) (v : Byte) :
    exec (.memWr a v) s = .next (if a.toNat < 0xC000 then s else s.romOnlyRamWrite a v) := by
  have lo : a < 0xC000#16 ↔ a.toNat < 0xC000 := BitVec.lt_def
  simp only [exec, execMemWr, whileRunning_of_running hr, hk, lo]
  split <;> rfl

/-- MEM_WR under SegaBanked, by the window of the address (R411, R415). -/
theorem exec_memWr_of_sega (hk : s.config.mapperKind = .segaBanked) (a : Word16) (v : Byte) :
    exec (.memWr a v) s = .next (
      if a.toNat < 0x8000 then s
      else if a.toNat < 0xC000 then if ramEnable s.ramCtl then s.slot2RamWrite a v else s
      else s.segaRamWrite a v) := by
  have rom : a < 0x8000#16 ↔ a.toNat < 0x8000 := BitVec.lt_def
  have ram : a < 0xC000#16 ↔ a.toNat < 0xC000 := BitVec.lt_def
  simp only [exec, execMemWr, whileRunning_of_running hr, hk, rom, ram]
  split_ifs <;> rfl

/-- Under RomOnly every bus write at or above 0xC000 is a RAM write, whichever row takes it (R413). -/
theorem exec_busWrite_of_romOnly (hk : s.config.mapperKind = .romOnly) {a : Word16}
    (ha : 0xC000 ≤ a.toNat) (v : Byte) :
    exec (busWrite a v) s = .next (s.romOnlyRamWrite a v) := by
  unfold busWrite
  split_ifs with hc hd he hf
  · subst hc; simp only [exec, execMemWrFffc, whileRunning_of_running hr, hk]
  · subst hd; simp only [exec, execMemWrFffd, whileRunning_of_running hr, hk]
  · subst he; simp only [exec, execMemWrFffe, whileRunning_of_running hr, hk]
  · subst hf; simp only [exec, execMemWrFfff, whileRunning_of_running hr, hk]
  · rw [exec_memWr_of_romOnly hr hk, if_neg (by omega)]

/-! ## The control bytes under SegaBanked -/

section
variable (hk : s.config.mapperKind = .segaBanked)
include hk

theorem exec_memWrFffc_of_ram {v : Byte} (hv : ramEnable v = true) :
    exec (.memWrFffc v) s = .next (State.copySramPage { s.store 0xFFFC v with ramCtl := v }) := by
  simp only [exec, execMemWrFffc, whileRunning_of_running hr, hk]
  exact if_pos hv

theorem exec_memWrFffc_of_rom {v : Byte} (hv : ramEnable v = false)
    (hp : pageInImage s.config (pageOf s.config s.slot2Page) = true) :
    exec (.memWrFffc v) s = .next { s with
      mem := (s.mem.write 0xFFFC v).blit 0x8000 (romPage s.config.rom (pageOf s.config s.slot2Page))
      ramCtl := v } := by
  simp only [exec, execMemWrFffc, whileRunning_of_running hr, hk]
  exact (if_neg (ne_true_of_eq_false hv)).trans (copyRomPage_of_pageInImage 0x8000 hp)

theorem exec_memWrFffd_of_sega (v : Byte) : exec (.memWrFffd v) s = .next (s.store 0xFFFD v) := by
  simp only [exec, execMemWrFffd, whileRunning_of_running hr, hk]

theorem exec_memWrFffe_of_sega {v : Byte} (hp : pageInImage s.config (pageOf s.config v) = true) :
    exec (.memWrFffe v) s = .next { s with
      mem := (s.mem.write 0xFFFE v).blit 0x4000 (romPage s.config.rom (pageOf s.config v))
      slot1Page := v } := by
  simp only [exec, execMemWrFffe, whileRunning_of_running hr, hk]
  exact copyRomPage_of_pageInImage 0x4000 hp

theorem exec_memWrFfff_of_ram (hc : ramEnable s.ramCtl = true) (v : Byte) :
    exec (.memWrFfff v) s = .next { s.store 0xFFFF v with slot2Page := v } := by
  simp only [exec, execMemWrFfff, whileRunning_of_running hr, hk]
  exact if_pos hc

theorem exec_memWrFfff_of_rom (hc : ramEnable s.ramCtl = false) {v : Byte}
    (hp : pageInImage s.config (pageOf s.config v) = true) :
    exec (.memWrFfff v) s = .next { s with
      mem := (s.mem.write 0xFFFF v).blit 0x8000 (romPage s.config.rom (pageOf s.config v))
      slot2Page := v } := by
  simp only [exec, execMemWrFfff, whileRunning_of_running hr, hk]
  exact (if_neg (ne_true_of_eq_false hc)).trans (copyRomPage_of_pageInImage 0x8000 hp)

end
end

/-- A list of instructions whose first answers a next state runs the rest on that state. -/
theorem execAll_cons {i : Instr} {s t : State} (h : exec i s = .next t) (rest : List Instr) :
    execAll (i :: rest) s = execAll rest t := by
  simp only [execAll, h]

/-! ## The statements about one transaction -/

/-- Settles O13. -/
theorem memReadReturnsTheByte : Obligations.MemReadReturnsTheByte :=
  fun a _ hr => exec_memRd hr a

/-- Settles O14, window by window. -/
theorem droppedWritesChangeNothing : Obligations.DroppedWritesChangeNothing := by
  intro a v s hr
  refine ⟨fun hk ha => ?_, fun hk ha => ?_, fun hk lo hi hc => ?_⟩
  · rw [exec_memWr_of_romOnly hr hk, if_pos ha]
  · rw [exec_memWr_of_sega hr hk, if_pos ha]
  · rw [exec_memWr_of_sega hr hk, if_neg (by omega), if_pos (by omega),
      if_neg (ne_true_of_eq_false hc)]

/-- Settles O15: whichever row takes the address, the write is the RAM write of R413. -/
theorem romOnlyWritesReachBothRamWindows : Obligations.RomOnlyWritesReachBothRamWindows :=
  fun a v s hr hk ha =>
    ⟨_, exec_busWrite_of_romOnly hr hk ha v, romOnlyRamWrite_frame s a v, romOnlyRamWrite_read s a v⟩

/-- Settles O16: the write is the RAM write of R414. -/
theorem segaRamWritesMirrorAllButFourBytes : Obligations.SegaRamWritesMirrorAllButFourBytes := by
  intro a v s hr hk ha _
  refine ⟨s.segaRamWrite a v, ?_, segaRamWrite_frame s a v, segaRamWrite_read s a v⟩
  rw [exec_memWr_of_sega hr hk, if_neg (by omega), if_neg (by omega)]

/-- Settles O17: the write is the write-through of R412. -/
theorem slotTwoRamWritesGoThroughToSram : Obligations.SlotTwoRamWritesGoThroughToSram := by
  intro a v s hr hk lo hi hc
  refine ⟨s.slot2RamWrite a v, ?_, slot2RamWrite_frame s a v, fun b => ?_,
    slot2RamWrite_sram_read s a v⟩
  · rw [exec_memWr_of_sega hr hk, if_neg (by omega), if_pos (by omega), if_pos hc]
  · rw [slot2RamWrite_mem, read_write]

/-- Settles O18, by the bit that selects what slot 2 shows. -/
theorem ramControlWriteRemapsSlotTwo : Obligations.RamControlWriteRemapsSlotTwo := by
  intro v s hr hk hc
  cases hv : v.getLsbD 3
  · have hp := pageInImage_of_wellFormed hk (hc hr) s.slot2Page
    refine ⟨_, exec_memWrFffc_of_rom hr hk hv hp, rfl, rfl, fun b => ?_⟩
    simp only [true_and, Bool.false_eq_true, false_and, if_false]
    exact read_write_blit_romPage hp (by decide) s.mem v b
  · refine ⟨_, exec_memWrFffc_of_ram hr hk hv, rfl, rfl, fun b => ?_⟩
    simpa [ramPage_mul] using copySramPage_read s v b

/-- Settles O19: the page that the byte selects lies in the image, so it is copied whole. -/
theorem slotOneSelectCopiesThePage : Obligations.SlotOneSelectCopiesThePage := by
  intro v s hr hk hc
  have hp := pageInImage_of_wellFormed hk (hc hr) v
  exact ⟨_, exec_memWrFffe_of_sega hr hk hp, rfl, rfl,
    read_write_blit_romPage hp (by decide) s.mem v⟩

/-- Settles O20, by what slot 2 shows. -/
theorem slotTwoSelectCopiesOnlyWhileRomBacked :
    Obligations.SlotTwoSelectCopiesOnlyWhileRomBacked := by
  intro v s hr hk hc
  cases he : s.ramCtl.getLsbD 3
  · have hp := pageInImage_of_wellFormed hk (hc hr) v
    refine ⟨_, exec_memWrFfff_of_rom hr hk he hp, rfl, rfl, fun b => ?_⟩
    simp only [true_and]
    exact read_write_blit_romPage hp (by decide) s.mem v b
  · refine ⟨_, exec_memWrFfff_of_ram hr hk he v, rfl, rfl, fun b => ?_⟩
    simpa using read_write s.mem 0xFFFF b v

/-- Settles O21. -/
theorem slotZeroControlByteOnlyStored : Obligations.SlotZeroControlByteOnlyStored :=
  fun v s hr hk => ⟨_, exec_memWrFffd_of_sega hr hk v, rfl, fun b => read_write s.mem 0xFFFD b v⟩

/-! ## The statements about a run of transactions -/

/-- Settles O22: the copy of O19, then the read of O13. -/
theorem slotOneReadsTheSelectedPage : Obligations.SlotOneReadsTheSelectedPage := by
  intro p a s hr hk hc lo hi
  obtain ⟨t, ht, frame, _, reads⟩ := slotOneSelectCopiesThePage p s hr hk hc
  have running : t.running = true := (congrArg State.running frame).trans hr
  refine ⟨_, (execAll_cons ht _).trans (execAll_cons (exec_memRd running a) []), ?_⟩
  show Reply.byte (t.mem.read a.toNat) = _
  rw [reads, if_neg (by omega), if_pos ⟨lo, hi⟩]

/-- Settles O23: SRAM holds the byte from the write on (O17), no remapping changes SRAM, and the second map-in of
the page copies the byte back into MEM (O18). -/
theorem cartridgeRamSurvivesPageSwitches : Obligations.CartridgeRamSurvivesPageSwitches := by
  intro c other a v s hr hk hc hen lo hi
  have hS := sramSize_le s.config
  obtain ⟨s₁, h₁, f₁, c₁, _⟩ := ramControlWriteRemapsSlotTwo c s hr hk hc
  have e₁ : s₁.config = s.config := (congrArg State.config f₁ :)
  have r₁ : s₁.running = true := (congrArg State.running f₁).trans hr
  obtain ⟨s₂, h₂, f₂, _, written⟩ := slotTwoRamWritesGoThroughToSram a v s₁ r₁ (e₁ ▸ hk) lo (by omega)
    (c₁ ▸ hen)
  have e₂ : s₂.config = s.config := (congrArg State.config f₂ :).trans e₁
  have r₂ : s₂.running = true := (congrArg State.running f₂).trans r₁
  have k₂ := exec_keeps_configLoadable (exec_keeps_configLoadable hc h₁) h₂
  obtain ⟨s₃, h₃, f₃, _, _⟩ := ramControlWriteRemapsSlotTwo other s₂ r₂ (e₂ ▸ hk) k₂
  have e₃ : s₃.config = s.config := (congrArg State.config f₃ :).trans e₂
  have r₃ : s₃.running = true := (congrArg State.running f₃).trans r₂
  have kept : s₃.sram = s₂.sram := (congrArg State.sram f₃ :)
  obtain ⟨s₄, h₄, f₄, _, mapped⟩ := ramControlWriteRemapsSlotTwo c s₃ r₃ (e₃ ▸ hk)
    (exec_keeps_configLoadable k₂ h₃)
  have r₄ : s₄.running = true := (congrArg State.running f₄).trans r₃
  refine ⟨{ s₄ with reply := .byte (s₄.mem.read a.toNat) }, ?_, congrArg Reply.byte ?_⟩
  · rw [execAll_cons h₁, execAll_cons h₂, execAll_cons h₃, execAll_cons h₄,
      execAll_cons (exec_memRd r₄ a)]
    rfl
  · rw [mapped, if_neg (by omega), if_pos ⟨hen, lo, e₃ ▸ hi⟩, kept, written, c₁, e₁, e₃, ← ramPage_mul,
      if_pos ⟨by omega, rfl⟩]

end Sys2Proof.Proofs
end

section
/-! SUPPORT. The address-translation view (R431): each memory operation of either mapper keeps it, no other
operation touches what it speaks of, and a valid LOAD establishes it (O59). -/

namespace Sys2Proof.Proofs

open Machine Laws

/-! ## The view of each mapper -/

theorem translationView_of_romOnly {s : State} (hk : s.config.mapperKind = .romOnly) :
    TranslationView s ↔ RomOnlyView s := by
  rw [TranslationView, hk]

theorem translationView_of_sega {s : State} (hk : s.config.mapperKind = .segaBanked) :
    TranslationView s ↔ SegaView s := by
  rw [TranslationView, hk]

/-- The view speaks of MEM, SRAM, the three mapper registers and the configuration alone. -/
theorem translationView_congr {s t : State} (h : TranslationView s) (hm : t.mem = s.mem)
    (hr : t.sram = s.sram) (hc : t.ramCtl = s.ramCtl) (h1 : t.slot1Page = s.slot1Page)
    (h2 : t.slot2Page = s.slot2Page) (hg : t.config = s.config) : TranslationView t := by
  rcases hk : s.config.mapperKind with _ | _
  · obtain ⟨image, past, mirror⟩ := (translationView_of_romOnly hk).mp h
    exact (translationView_of_romOnly (hg ▸ hk)).mpr
      ⟨by rwa [hm, hg], by rwa [hm, hg], by rwa [hm]⟩
  · obtain ⟨slot0, slot1, slot2Rom, slot2Ram, mirror⟩ := (translationView_of_sega hk).mp h
    exact (translationView_of_sega (hg ▸ hk)).mpr
      ⟨by rwa [hm, hg], by rwa [hm, hg, h1], by rwa [hm, hc, hg, h2], by rwa [hm, hr, hc, hg],
        by rwa [hm]⟩

/-! ## RomOnly -/

/-- A RAM write reaches both windows of the RAM and no byte of the image (R413). -/
theorem romOnlyRamWrite_view {s : State} (h : RomOnlyView s) (hl : s.config.rom.length ≤ 0xC000)
    {a : Word16} (ha : 0xC000 ≤ a.toNat) (v : Byte) : RomOnlyView (s.romOnlyRamWrite a v) := by
  have hg : (s.romOnlyRamWrite a v).config = s.config :=
    (congrArg State.config (romOnlyRamWrite_frame s a v) :)
  have reads := romOnlyRamWrite_read s a v
  have low : ∀ b, b < 0xC000 → (s.romOnlyRamWrite a v).mem.read b = s.mem.read b := fun b hb => by
    rw [reads, if_neg (by split <;> omega)]
  refine ⟨fun b hb => ?_, fun b lo hi => ?_, fun b lo hi => ?_⟩
  · rw [hg] at hb ⊢
    exact (low b (by omega)).trans (h.image b hb)
  · rw [hg] at lo
    exact (low b hi).trans (h.past b lo hi)
  · have hit : (b = a.toNat ∨ b = if a.toNat < 0xE000 then a.toNat + 0x2000 else a.toNat - 0x2000) ↔
        (b + 0x2000 = a.toNat ∨
          b + 0x2000 = if a.toNat < 0xE000 then a.toNat + 0x2000 else a.toNat - 0x2000) := by
      split <;> omega
    rw [reads, reads, h.mirror b lo hi]
    exact if_congr hit rfl rfl

/-- Under RomOnly a memory write is dropped or is a RAM write. -/
theorem writesMemory_of_romOnly {i : Instr} {s t : State} (hi : writesMemory i = true)
    (hk : s.config.mapperKind = .romOnly) (h : exec i s = .next t) :
    s.running = true ∧
      (t = s ∨ ∃ (a : Word16) (v : Byte), 0xC000 ≤ a.toNat ∧ t = s.romOnlyRamWrite a v) := by
  have hne : s.config.mapperKind ≠ .segaBanked := by rw [hk]; decide
  cases i with
  | memWr a v =>
    obtain ⟨hr, e | ⟨_, ha, e⟩ | ⟨hs, _⟩ | ⟨hs, _⟩⟩ := memWr_next h
    · exact ⟨hr, .inl e⟩
    · exact ⟨hr, .inr ⟨a, v, ha, e⟩⟩
    · exact absurd hs hne
    · exact absurd hs hne
  | memWrFffc v =>
    obtain ⟨hr, ⟨_, e⟩ | ⟨hs, _⟩ | ⟨hs, _⟩⟩ := memWrFffc_next h
    · exact ⟨hr, .inr ⟨_, v, by decide, e⟩⟩
    · exact absurd hs hne
    · exact absurd hs hne
  | memWrFffd v =>
    obtain ⟨hr, ⟨_, e⟩ | ⟨hs, _⟩⟩ := memWrFffd_next h
    · exact ⟨hr, .inr ⟨_, v, by decide, e⟩⟩
    · exact absurd hs hne
  | memWrFffe v =>
    obtain ⟨hr, ⟨_, e⟩ | ⟨hs, _⟩⟩ := memWrFffe_next h
    · exact ⟨hr, .inr ⟨_, v, by decide, e⟩⟩
    · exact absurd hs hne
  | memWrFfff v =>
    obtain ⟨hr, ⟨_, e⟩ | ⟨hs, _⟩ | ⟨hs, _⟩⟩ := memWrFfff_next h
    · exact ⟨hr, .inr ⟨_, v, by decide, e⟩⟩
    · exact absurd hs hne
    · exact absurd hs hne
  | _ => cases hi

/-! ## SegaBanked -/

@[simp] theorem slot2RamWrite_config (s : State) (a : Word16) (v : Byte) :
    (s.slot2RamWrite a v).config = s.config := by
  unfold State.slot2RamWrite; split <;> rfl

@[simp] theorem slot2RamWrite_ramCtl (s : State) (a : Word16) (v : Byte) :
    (s.slot2RamWrite a v).ramCtl = s.ramCtl := by
  unfold State.slot2RamWrite; split <;> rfl

@[simp] theorem slot2RamWrite_slot1Page (s : State) (a : Word16) (v : Byte) :
    (s.slot2RamWrite a v).slot1Page = s.slot1Page := by
  unfold State.slot2RamWrite; split <;> rfl

section
variable {s : State} (h : SegaView s)
include h

/-- A RAM write reaches both bytes of a mirrored pair or neither (R414). -/
theorem segaRamWrite_view {a : Word16} (ha : 0xC000 ≤ a.toNat) (v : Byte) :
    SegaView (s.segaRamWrite a v) := by
  have reads := segaRamWrite_read s a v
  have low : ∀ b, b < 0xC000 → (s.segaRamWrite a v).mem.read b = s.mem.read b := fun b hb => by
    rw [reads, if_neg (by omega)]
  have frame := segaRamWrite_frame s a v
  generalize s.segaRamWrite a v = t at reads low frame ⊢
  have hg : t.config = s.config := (congrArg State.config frame :)
  have hr : t.sram = s.sram := (congrArg State.sram frame :)
  have hc : t.ramCtl = s.ramCtl := (congrArg State.ramCtl frame :)
  have h1 : t.slot1Page = s.slot1Page := (congrArg State.slot1Page frame :)
  have h2 : t.slot2Page = s.slot2Page := (congrArg State.slot2Page frame :)
  have hS := sramSize_le s.config
  refine ⟨fun b hb => ?_, fun b lo hi => ?_, fun he b lo hi => ?_, fun he b lo hi => ?_,
    fun b lo hi => ?_⟩
  · rw [hg, low b (by omega), h.slot0 b hb]
  · rw [hg, h1, low b (by omega), h.slot1 b lo hi]
  · rw [hg, h2, low b (by omega), h.slot2Rom (hc ▸ he) b lo hi]
  · rw [hg] at hi
    rw [hg, hr, hc, low b (by omega), h.slot2Ram (hc ▸ he) b lo hi]
  · rw [reads, reads, h.mirror b lo hi]
    exact if_congr (by omega) rfl rfl

/-- A control byte lies above every slot and every mirrored pair (R422, R424 to R426). -/
theorem store_controlByte_view {k : Nat} (hk : 0xFFFC ≤ k) (v : Byte) : SegaView (s.store k v) := by
  have hS := sramSize_le s.config
  have low : ∀ b, b < 0xFFFC → (s.store k v).mem.read b = s.mem.read b := fun b hb => by
    rw [store_mem, read_write, if_neg (by omega)]
  refine ⟨fun b hb => ?_, fun b lo hi => ?_, fun he b lo hi => ?_, fun he b lo hi => ?_,
    fun b lo hi => ?_⟩
  · exact (low b (by omega)).trans (h.slot0 b hb)
  · exact (low b (by omega)).trans (h.slot1 b lo hi)
  · exact (low b (by omega)).trans (h.slot2Rom he b lo hi)
  · rw [store_config] at hi
    exact (low b (by omega)).trans (h.slot2Ram he b lo hi)
  · rw [low b (by omega), low _ (by omega), h.mirror b lo hi]

/-- A write into RAM-backed slot 2 changes MEM and the mapped page of SRAM alike (R412). -/
theorem slot2RamWrite_view {a : Word16} (lo : 0x8000 ≤ a.toNat) (hi : a.toNat < 0xC000)
    (hc : ramEnable s.ramCtl = true) (v : Byte) : SegaView (s.slot2RamWrite a v) := by
  have reads : ∀ b, (s.slot2RamWrite a v).mem.read b = if b = a.toNat then v else s.mem.read b :=
    fun b => by rw [slot2RamWrite_mem, read_write]
  have sramReads := slot2RamWrite_sram_read s a v
  refine ⟨fun b hb => ?_, fun b lo hi => ?_, fun he => ?_, fun _ b lo hi => ?_, fun b lo hi => ?_⟩
  · rw [slot2RamWrite_config, reads, if_neg (by omega), h.slot0 b hb]
  · rw [slot2RamWrite_config, slot2RamWrite_slot1Page, reads, if_neg (by omega), h.slot1 b lo hi]
  · rw [slot2RamWrite_ramCtl, hc] at he
    cases he
  · rw [slot2RamWrite_config] at hi
    rw [slot2RamWrite_config, slot2RamWrite_ramCtl, reads, sramReads,
      h.slot2Ram hc b lo hi]
    exact if_congr (by omega) rfl rfl
  · rw [reads, reads, if_neg (by omega), if_neg (by omega), h.mirror b lo hi]

/-- Slot 1 mapped to a page of the image (R424, R430). -/
theorem mapSlot1_view {p : Byte} (hp : pageInImage s.config (pageOf s.config p) = true) :
    SegaView { s with
      mem := s.mem.blit 0x4000 (romPage s.config.rom (pageOf s.config p)), slot1Page := p } := by
  have hS := sramSize_le s.config
  have reads := read_blit_romPage hp s.mem 0x4000
  refine ⟨fun b hb => ?_, fun b lo hi => ?_, fun he b lo hi => ?_, fun he b lo hi => ?_,
    fun b lo hi => ?_⟩
  · rw [reads, if_neg (by omega), h.slot0 b hb]
  · rw [reads, if_pos (by omega)]; rfl
  · rw [reads, if_neg (by omega), h.slot2Rom he b lo hi]
  · rw [reads, if_neg (by omega), h.slot2Ram he b lo hi]
  · rw [reads, reads, if_neg (by omega), if_neg (by omega), h.mirror b lo hi]

/-- Slot 2 mapped to a page of the image, with RAM not enabled (R423, R425, R430). -/
theorem mapSlot2_view {c p : Byte} (hc : ramEnable c = false)
    (hp : pageInImage s.config (pageOf s.config p) = true) :
    SegaView { s with
      mem := s.mem.blit 0x8000 (romPage s.config.rom (pageOf s.config p))
      ramCtl := c, slot2Page := p } := by
  have reads := read_blit_romPage hp s.mem 0x8000
  refine ⟨fun b hb => ?_, fun b lo hi => ?_, fun _ b lo hi => ?_,
    fun he => absurd he (ne_true_of_eq_false hc), fun b lo hi => ?_⟩
  · rw [reads, if_neg (by omega), h.slot0 b hb]
  · rw [reads, if_neg (by omega), h.slot1 b lo hi]
  · rw [reads, if_pos (by omega)]; rfl
  · rw [reads, reads, if_neg (by omega), if_neg (by omega), h.mirror b lo hi]

/-- Slot 2 mapped to a page of cartridge RAM (R423). -/
theorem mapSram_view {c : Byte} (hc : ramEnable c = true) :
    SegaView (State.copySramPage { s with ramCtl := c }) := by
  have hS := sramSize_le s.config
  have reads := read_copyIn s.mem 0x8000 s.config.sramSize s.sram (ramPage c * s.config.sramSize)
  refine ⟨fun b hb => ?_, fun b lo hi => ?_, fun he => absurd hc (ne_true_of_eq_false he),
    fun _ b lo hi => ?_, fun b lo hi => ?_⟩
  · exact (reads b).trans ((if_neg (by omega)).trans (h.slot0 b hb))
  · exact (reads b).trans ((if_neg (by omega)).trans (h.slot1 b lo hi))
  · exact (reads b).trans (if_pos ⟨lo, hi⟩)
  · refine (reads b).trans (Eq.trans ?_ (reads (b + 0x2000)).symm)
    rw [if_neg (by omega), if_neg (by omega), h.mirror b lo hi]

/-- While slot 2 shows cartridge RAM, the view does not speak of `slot2_page` (R425). -/
theorem recordSlot2Page_view (hc : ramEnable s.ramCtl = true) (v : Byte) :
    SegaView { s with slot2Page := v } :=
  ⟨h.slot0, h.slot1, fun he => absurd hc (ne_true_of_eq_false he), h.slot2Ram, h.mirror⟩

/-- Every memory write keeps the view under SegaBanked: each is built of the operations above. -/
theorem writesMemory_keeps_segaView {i : Instr} {t : State} (hi : writesMemory i = true)
    (hk : s.config.mapperKind = .segaBanked) (hx : exec i s = .next t) : SegaView t := by
  have hne : s.config.mapperKind ≠ .romOnly := by rw [hk]; decide
  cases i with
  | memWr a v =>
    obtain ⟨_, rfl | ⟨hm, _⟩ | ⟨_, lo, hi, hc, rfl⟩ | ⟨_, ha, rfl⟩⟩ := memWr_next hx
    · exact h
    · exact absurd hm hne
    · exact slot2RamWrite_view h lo hi hc v
    · exact segaRamWrite_view h ha v
  | memWrFffc v =>
    have stored := store_controlByte_view h (k := 0xFFFC) (by decide) v
    obtain ⟨_, ⟨hm, _⟩ | ⟨_, hv, rfl⟩ | ⟨_, hv, hp, rfl⟩⟩ := memWrFffc_next hx
    · exact absurd hm hne
    · exact mapSram_view stored hv
    · exact mapSlot2_view stored hv hp
  | memWrFffd v =>
    obtain ⟨_, ⟨hm, _⟩ | ⟨_, rfl⟩⟩ := memWrFffd_next hx
    · exact absurd hm hne
    · exact store_controlByte_view h (by decide) v
  | memWrFffe v =>
    have stored := store_controlByte_view h (k := 0xFFFE) (by decide) v
    obtain ⟨_, ⟨hm, _⟩ | ⟨_, hp, rfl⟩⟩ := memWrFffe_next hx
    · exact absurd hm hne
    · exact mapSlot1_view stored hp
  | memWrFfff v =>
    have stored := store_controlByte_view h (k := 0xFFFF) (by decide) v
    obtain ⟨_, ⟨hm, _⟩ | ⟨_, hc, rfl⟩ | ⟨_, hc, hp, rfl⟩⟩ := memWrFfff_next hx
    · exact absurd hm hne
    · exact recordSlot2Page_view stored hc v
    · exact mapSlot2_view stored hc hp
  | _ => cases hi

end

/-! ## LOAD -/

/-- LOAD of an acceptable configuration starts the run (R901). -/
theorem load_of_accepts {c : Configuration} (h : LoadAccepts c) (s : State) :
    exec (.load c) s = .next (s.loaded c) := by
  obtain ⟨hb, hl⟩ := checks_iff.mpr h.2
  exact (if_pos (romValid_iff.mpr h.1)).trans ((if_pos hb).trans (if_pos hl))

/-- What MEM reads under RomOnly after LOAD: the image, then 0x00 (R440). -/
theorem romOnlyMem_read (c : Configuration) (b : Nat) : (romOnlyMem c).read b = romByte c b := by
  rw [romOnlyMem, read_blit, read_nil, romByte]
  split
  · rfl
  · rw [List.getElem?_eq_none (by omega)]; rfl

theorem romByte_past {c : Configuration} {b : Nat} (h : c.rom.length ≤ b) : romByte c b = 0#8 := by
  rw [romByte, List.getElem?_eq_none h]; rfl

theorem loaded_romOnlyView {c : Configuration} (s : State) (hk : c.mapperKind = .romOnly)
    (hl : c.rom.length ≤ 0xC000) : RomOnlyView (s.loaded c) := by
  have reads : ∀ b, (s.loaded c).mem.read b = romByte c b := fun b => by
    rw [← romOnlyMem_read]
    show (initialMem c).read b = _
    rw [initialMem, hk]
  have past : ∀ b, c.rom.length ≤ b → (s.loaded c).mem.read b = 0#8 := fun b hb =>
    (reads b).trans (romByte_past hb)
  refine ⟨fun b _ => reads b, fun b lo _ => past b lo, fun b lo _ => ?_⟩
  rw [past b (by omega), past _ (by omega)]

/-- What MEM reads under SegaBanked after LOAD: pages 0, 1 and 2 in the three slots, then 0x00 (R441). -/
theorem segaMem_read {c : Configuration} (hk : c.mapperKind = .segaBanked)
    (hw : ConfigWellFormed c) (b : Nat) :
    (segaMem c).read b =
      if 0x8000 ≤ b ∧ b < 0xC000 then romByte c (pageOf c 2#8 * 0x4000 + (b - 0x8000))
      else if 0x4000 ≤ b ∧ b < 0x8000 then romByte c (pageOf c 1#8 * 0x4000 + (b - 0x4000))
      else if b < 0x4000 then romByte c b else 0#8 := by
  have inImage := pageInImage_of_wellFormed hk hw
  have page0 : pageOf c 0#8 = 0 := Nat.zero_mod _
  rw [segaMem, read_blit_romPage (inImage 2#8), read_blit_romPage (inImage 1#8),
    read_blit_romPage (page0 ▸ inImage 0#8), read_nil]
  simp [romByte]

theorem loaded_segaView {c : Configuration} (s : State) (hk : c.mapperKind = .segaBanked)
    (hw : ConfigWellFormed c) : SegaView (s.loaded c) := by
  have reads : ∀ b, (s.loaded c).mem.read b = _ := fun b =>
    (show (initialMem c).read b = (segaMem c).read b by rw [initialMem, hk]).trans
      (segaMem_read hk hw b)
  have ram : ∀ b, 0xC000 ≤ b → (s.loaded c).mem.read b = 0#8 := fun b hb => by
    rw [reads, if_neg (by omega), if_neg (by omega), if_neg (by omega)]
  refine ⟨fun b hb => ?_, fun b lo hi => ?_, fun _ b lo hi => ?_,
    fun he => absurd (show ramEnable 0x00#8 = true from he) (by decide), fun b lo hi => ?_⟩
  · rw [reads, if_neg (by omega), if_neg (by omega), if_pos (by omega)]; rfl
  · rw [reads, if_neg (by omega), if_pos (by omega)]; rfl
  · rw [reads, if_pos (by omega)]; rfl
  · rw [ram b lo, ram _ (by omega)]

theorem loaded_view {c : Configuration} (s : State) (hw : ConfigWellFormed c) :
    TranslationView (s.loaded c) := by
  rcases hk : c.mapperKind with _ | _
  · have hl := (lengthCheck_iff_of_romOnly hk).mp (checks_iff.mpr hw).2
    exact (translationView_of_romOnly hk).mpr (loaded_romOnlyView s hk hl)
  · exact (translationView_of_sega hk).mpr (loaded_segaView s hk hw)

/-! ## Every operation -/

theorem exec_keeps_view {i : Instr} {s t : State} (hc : ConfigLoadable s) (hv : TranslationView s)
    (h : exec i s = .next t) : TranslationView t := by
  cases exec_effect h with
  | memory hi =>
    rcases hk : s.config.mapperKind with _ | _
    · have view := (translationView_of_romOnly hk).mp hv
      refine (translationView_of_romOnly (by exact hk)).mpr ?_
      obtain ⟨hr, e | ⟨a, v, ha, e⟩⟩ := writesMemory_of_romOnly hi hk h
      · rwa [e]
      · rw [e]
        exact romOnlyRamWrite_view view ((lengthCheck_iff_of_romOnly hk).mp (checks_iff.mpr (hc hr)).2) ha v
    · have view := (translationView_of_sega hk).mp hv
      exact (translationView_of_sega (by exact hk)).mpr (writesMemory_keeps_segaView view hi hk h)
  | load c =>
    obtain ⟨_, hb, hl, rfl⟩ | ⟨_, rfl⟩ | rfl := load_next h
    · exact loaded_view s (checks_iff.mp ⟨hb, hl⟩)
    · exact translationView_congr hv rfl rfl rfl rfl rfl rfl
    · exact translationView_congr hv rfl rfl rfl rfl rfl rfl
  | _ => exact translationView_congr hv rfl rfl rfl rfl rfl rfl

/-- Settles O59: a loadable configuration and the view are kept together, and a valid LOAD sets the view up. -/
theorem stepsKeepTheTranslationView : Obligations.StepsKeepTheTranslationView := by
  refine ⟨fun s t hc hv h => ?_, fun c s h => ⟨_, load_of_accepts h s, loaded_view s h.2⟩⟩
  exact (step_keeps (P := fun u => ConfigLoadable u ∧ TranslationView u)
    (fun _ _ k => ⟨k.1, translationView_congr k.2 rfl rfl rfl rfl rfl rfl⟩)
    (fun k e => ⟨exec_keeps_configLoadable k.1 e, exec_keeps_view k.1 k.2 e⟩) ⟨hc, hv⟩ h).2

end Sys2Proof.Proofs
end

section
/-! SUPPORT. The data and control ports: what each port operation and command word answers (R500 to R550), the
operations that leave the port's registers alone (R501, R533), and the read buffer over a run (O24 to O39). -/

namespace Sys2Proof.Proofs

open Machine Laws

/-! ## Addresses -/

/-- Inc on numbers (R530). -/
theorem inc_eq (a : Word16) :
    inc a = if a.toNat % 1024 = 0 then 0xC000#16 else BitVec.ofNat 16 (a.toNat + 1) := by
  have next : a + 1#16 = BitVec.ofNat 16 (a.toNat + 1) := BitVec.eq_of_toNat_eq (by simp)
  unfold inc
  rw [next]
  exact if_congr (lowTen_zero_iff a) rfl rfl

@[simp] theorem toNat_commandAddress (a : BitVec 14) : (a.setWidth 16).toNat = a.toNat :=
  BitVec.toNat_setWidth_of_le (by decide)

/-- The fourteen bits of a command word address VRAM as they are (R510, R531). -/
@[simp] theorem vIdx_commandAddress (a : BitVec 14) : vIdx (a.setWidth 16) = a.toNat := by
  rw [vIdx_eq, toNat_commandAddress, Nat.mod_eq_of_lt a.isLt]

/-- Settles O31, by the quirk's test. -/
theorem autoIncrementQuirk : Obligations.AutoIncrementQuirk := by
  intro a
  rw [inc_eq]
  split
  · rfl
  · exact BitVec.toNat_ofNat _ _

/-! ## What a command word leaves -/

@[simp] theorem execCommand_code (s : State) (c : BitVec 2) (a : BitVec 14) :
    (s.execCommand c a).code = c := by
  obtain ⟨rfl, e⟩ | ⟨rfl, e⟩ | ⟨rfl, e⟩ | ⟨rfl, e⟩ := execCommand_cases s c a <;> rw [e] <;> rfl

/-- Only code 0 increments the address it has loaded (R510, R511). -/
theorem execCommand_addr {c : BitVec 2} (hc : c ≠ 0#2) (s : State) (a : BitVec 14) :
    (s.execCommand c a).addr = a.setWidth 16 := by
  obtain ⟨h, _⟩ | ⟨_, e⟩ | ⟨_, e⟩ | ⟨_, e⟩ := execCommand_cases s c a
  · exact absurd h hc
  · rw [e]; rfl
  · rw [e]; rfl
  · rw [e]; rfl

@[simp] theorem execCommand_pending (s : State) (c : BitVec 2) (a : BitVec 14) :
    (s.execCommand c a).pending = s.pending :=
  (congrArg State.pending (execCommand_frame s c a) :)

@[simp] theorem execCommand_latchLo (s : State) (c : BitVec 2) (a : BitVec 14) :
    (s.execCommand c a).latchLo = s.latchLo :=
  (congrArg State.latchLo (execCommand_frame s c a) :)

/-! ## What each operation answers -/

section
variable {s : State} (hr : s.running = true)
include hr

/-- A data-port write: the store that the code selects, in one record (R520, R521). -/
theorem exec_ioWrData (p v : Byte) : exec (.ioWrData p v) s = .next { s with
    vram := if s.code = 3#2 then s.vram else s.vram.write (s.addr.toNat % 16384) v
    cram := if s.code = 3#2 then s.cram.write (s.addr.toNat % 32) v else s.cram
    pending := false, rbuf := v, addr := inc s.addr } := by
  have store : s.clearPending.storeData v = { s with
      vram := if s.code = 3#2 then s.vram else s.vram.write (s.addr.toNat % 16384) v
      cram := if s.code = 3#2 then s.cram.write (s.addr.toNat % 32) v else s.cram
      pending := false } := by
    rw [← vIdx_eq, ← cIdx_eq]
    unfold State.storeData
    rw [clearPending_code]
    split <;> rfl
  refine (whileRunning_of_running hr _).trans ?_
  rw [store]
  rfl

/-- A data-port read, whatever `code` holds (R522). -/
theorem exec_ioRdData (p : Byte) : exec (.ioRdData p) s = .next { s with
    pending := false, rbuf := s.vram.read (s.addr.toNat % 16384), addr := inc s.addr,
    reply := .byte s.rbuf } := by
  rw [← vIdx_eq]
  exact whileRunning_of_running hr _

/-- A status read clears the flags after handing them back (R540). -/
theorem exec_ioRdStatus (p : Byte) : exec (.ioRdStatus p) s = .next { s with
    status := clearFlags s.status, pending := false, reply := .byte s.status } :=
  whileRunning_of_running hr _

/-- The second control byte means what its command word means (R500). -/
theorem ioWrCtrl_eq_decodeCommand (hp : s.pending = true) (p v : Byte) :
    exec (.ioWrCtrl p v) s = exec (decodeCommand (v ++ s.latchLo)) s := by
  rw [ioWrCtrl_of_pending hr hp, exec_decodeCommand, whileRunning_of_running hr]
  rfl

end

/-! ## The statements about one operation -/

/-- Settles O24. -/
theorem firstControlByteIsLatched : Obligations.FirstControlByteIsLatched :=
  fun _ _ _ hr hp => ioWrCtrl_of_not_pending hr hp

/-- Settles O25: the command word's fields are those of the two bytes (O4). -/
theorem secondControlByteRunsTheCommand : Obligations.SecondControlByteRunsTheCommand := by
  intro p v s hr hp
  have code := cmdCode_commandWord_toNat v s.latchLo
  refine ⟨ioWrCtrl_eq_decodeCommand hr hp p v, _, ioWrCtrl_of_pending hr hp, ?_, ?_, fun hv => ?_⟩
  · rw [execCommand_pending, clearPending_pending]
  · rw [execCommand_code, code]
  · have nonzero : cmdCode (commandWord v s.latchLo) ≠ 0#2 := by
      intro h
      have zero : v.toNat / 64 = 0 := by rw [← code, h]; rfl
      omega
    rw [execCommand_addr nonzero, toNat_commandAddress, cmdAddr_commandWord_toNat]

/-- Settles O26: the buffer is primed at the address loaded. -/
theorem vramReadCommandPrimesTheBuffer : Obligations.VramReadCommandPrimesTheBuffer := by
  intro a s hr
  rw [← toNat_commandAddress, ← inc_eq, toNat_commandAddress, ← vIdx_commandAddress]
  exact whileRunning_of_running hr _

/-- Settles O27: the register's number and value are the fields of R311. -/
theorem regWriteCommandWritesOneRegister : Obligations.RegWriteCommandWritesOneRegister := by
  intro a s hr
  have value : regValue a = BitVec.ofNat 8 (a.toNat % 256) :=
    BitVec.eq_of_toNat_eq (by simp [regValue_toNat])
  refine ⟨(s.clearPending.loadCommand 2#2 a).setReg (regNumber a) (regValue a),
    whileRunning_of_running hr _, rfl, rfl, toNat_commandAddress a, rfl, fun n => ?_⟩
  rw [reg_setReg, regNumber_toNat, value]
  rfl

/-- Settles O28. -/
theorem writeTargetCommandsOnlyLoadAddressAndCode :
    Obligations.WriteTargetCommandsOnlyLoadAddressAndCode := by
  intro a s hr
  rw [BitVec.ofNat_toNat]
  exact ⟨whileRunning_of_running hr _, whileRunning_of_running hr _⟩

/-- Settles O29: one byte of the memory that the code selects is written. -/
theorem dataWriteStoresByCode : Obligations.DataWriteStoresByCode := by
  intro p v s hr
  refine ⟨_, exec_ioWrData hr p v, rfl, rfl, rfl, rfl, fun b => ?_, fun b => ?_⟩
  · by_cases hc : s.code = 3#2
    · simp [hc]
    · simp [hc, read_write]
  · by_cases hc : s.code = 3#2
    · simp [hc, read_write]
    · simp [hc]

/-- Settles O30. -/
theorem dataReadReturnsTheBufferedByte : Obligations.DataReadReturnsTheBufferedByte :=
  fun p _ hr => exec_ioRdData hr p

/-- The flags cleared leave bits 4:0 (R540). -/
theorem clearFlags_eq (st : Byte) : clearFlags st = BitVec.ofNat 8 (st.toNat % 32) := by
  have low : (clearFlags st).toNat = st.toNat % 32 := by
    rw [clearFlags, BitVec.toNat_and]
    exact Nat.and_two_pow_sub_one_eq_mod st.toNat 5
  apply BitVec.eq_of_toNat_eq
  rw [low, BitVec.toNat_ofNat]
  omega

/-- Settles O34: under the invariant the first read leaves 0x00, which the second hands back. -/
theorem statusReadReturnsAndClears : Obligations.StatusReadReturnsAndClears := by
  intro p q s hr
  refine ⟨?_, fun low => ?_⟩
  · rw [← clearFlags_eq]
    exact exec_ioRdStatus hr p
  · have cleared : clearFlags s.status = 0#8 := low
    rw [execAll_cons (exec_ioRdStatus hr p), cleared]
    exact ⟨_, execAll_cons (exec_ioRdStatus (by exact hr) q) [], rfl, BitVec.zero_and⟩

/-- Settles O35. -/
theorem spriteHooksSetOneStatusBit : Obligations.SpriteHooksSetOneStatusBit :=
  fun _ hr => ⟨whileRunning_of_running hr _, whileRunning_of_running hr _⟩

/-- Settles O36: the reads hand the counters back, and a listed value stands before the free one. -/
theorem counterReadsReturnTheMappedCounters : Obligations.CounterReadsReturnTheMappedCounters := by
  intro p s hr
  refine ⟨whileRunning_of_running hr _, whileRunning_of_running hr _, fun v hv => ?_, fun v hv => ?_⟩
  · rw [vcountMap, hv, Option.getD_some]
  · rw [hcountFn, hv, Option.getD_some]

/-! ## The operations that leave the port's registers -/

/-- The registers of the port protocol that outlast a transaction: `addr`, `pending` and latch_lo. -/
def portState (s : State) : Word16 × Bool × Byte := (s.addr, s.pending, s.latchLo)

/-- The operations that can change them: the data, status and control ports, the command words and LOAD. -/
def usesPort : Instr → Bool
  | .ioRdData _ | .ioRdStatus _ | .ioWrData _ _ | .ioWrCtrl _ _ => true
  | .cmdVramRead _ | .cmdVramWrite _ | .cmdRegWrite _ | .cmdCramWrite _ | .load _ => true
  | _ => false

theorem usesPort_busWrite (a : Word16) (v : Byte) : usesPort (busWrite a v) = false := by
  unfold busWrite
  split_ifs <;> rfl

/-- Every other operation leaves them (R501, R533). -/
theorem exec_keeps_portState {i : Instr} {s t : State} (hi : usesPort i = false)
    (h : exec i s = .next t) : portState t = portState s := by
  cases i with
  | memWr a v => exact (congrArg portState (memWr_frame h) :)
  | memWrFffc v => exact (congrArg portState (memWrFffc_frame h) :)
  | memWrFffd v => exact (congrArg portState (memWrFffd_frame h) :)
  | memWrFffe v => exact (congrArg portState (memWrFffe_frame h) :)
  | memWrFfff v => exact (congrArg portState (memWrFfff_frame h) :)
  | tick n => exact (congrArg portState (tick_frame h) :)
  | memRd | ioRdVcount | ioRdHcount | ioRdIgnLo | ioRdIgnHi | ioWrCounter | ioWrIgnLo | ioWrIgnHi
  | setSpriteOverflow | setSpriteCollision | readFb => obtain ⟨_, rfl⟩ := guarded_next h; rfl
  | hostReserved5 | hostReserved67 => cases h
  | _ => cases hi

/-- Settles O33: Inc keeps 0xC000, and what else may run does not write `addr`. -/
theorem wrappedAddressStaysUntilACommand : Obligations.WrappedAddressStaysUntilACommand := by
  intro i s t ha h notLoad firstByte notCommand
  have wrapped : inc s.addr = 0xC000#16 := by rw [ha]; rfl
  cases i with
  | ioRdData p => obtain ⟨_, rfl⟩ := ioRdData_next h; exact wrapped
  | ioRdStatus p => obtain ⟨_, rfl⟩ := ioRdStatus_next h; exact ha
  | ioWrData p v =>
    cases (exec_ioWrData (ioWrData_next h).1 p v).symm.trans h
    exact wrapped
  | ioWrCtrl p v =>
    cases (ioWrCtrl_of_not_pending (ioWrCtrl_next h).1 (firstByte p v rfl)).symm.trans h
    exact ha
  | cmdVramRead a | cmdVramWrite a | cmdRegWrite a | cmdCramWrite a =>
    exact absurd (notCommand a) (by simp)
  | load c => exact absurd rfl (notLoad c)
  | _ => exact (congrArg Prod.fst (exec_keeps_portState rfl h)).trans ha

/-- A control write, by the state of the latch (R500, R501). -/
theorem ioWrCtrl_latch {p v : Byte} {s t : State} (h : exec (.ioWrCtrl p v) s = .next t) :
    (s.pending = false → t.pending = true ∧ t.latchLo = v) ∧
    (s.pending = true → t.pending = false ∧ t.latchLo = s.latchLo ∧
      exec (decodeCommand (v ++ s.latchLo)) s = .next t) := by
  have hr := (ioWrCtrl_next h).1
  refine ⟨fun hp => ?_, fun hp => ?_⟩
  · cases (ioWrCtrl_of_not_pending hr hp).symm.trans h
    exact ⟨rfl, rfl⟩
  · have command := (ioWrCtrl_eq_decodeCommand hr hp p v).symm.trans h
    cases (ioWrCtrl_of_pending hr hp).symm.trans h
    exact ⟨execCommand_pending _ _ _, execCommand_latchLo _ _ _, command⟩

/-- Settles O38: the control write, the three transactions that cancel a first byte, and those that use no port. -/
theorem controlLatchIsATwoStateMachine : Obligations.ControlLatchIsATwoStateMachine := by
  intro s t i h
  refine ⟨?_, ?_, fun a p v n hi => ?_⟩
  · rintro p v rfl
    exact ioWrCtrl_latch h
  · rintro p v (rfl | rfl | rfl)
    · obtain ⟨_, rfl⟩ := ioRdStatus_next h; exact ⟨rfl, rfl⟩
    · obtain ⟨_, rfl⟩ := ioRdData_next h; exact ⟨rfl, rfl⟩
    · cases (exec_ioWrData (ioWrData_next h).1 p v).symm.trans h
      exact ⟨rfl, rfl⟩
  · have unused : usesPort i = false := by
      rcases hi with rfl | rfl | rfl | rfl | rfl | rfl | rfl | rfl | rfl | rfl | rfl | rfl | rfl
      any_goals rfl
      exact usesPort_busWrite a v
    exact Prod.mk.inj (congrArg Prod.snd (exec_keeps_portState unused h))

/-! ## The read buffer over a run -/

/-- A run goes on from the state its first steps answer. -/
theorem run_add_of_next {M : Host.Core} {j : Nat} (k : Nat) {s t : M.State} (h : M.run j s = .next t) :
    M.run (j + k) s = M.run k t := by
  induction j generalizing s with
  | zero => cases h; rw [Nat.zero_add]
  | succ j ih =>
    rw [Host.Core.run] at h
    cases hs : M.step s with
    | next u =>
      rw [hs] at h
      rw [Nat.add_right_comm, run_next hs]
      exact ih h
    | fault | refused => rw [hs] at h; cases h

/-- A run of one operation more, where its first steps answer a next state. -/
theorem run_succ_of_exec {j : Nat} {s t u : State} {r : Request} {rest : List Request} {i : Instr}
    (h : Host.Core.run Sys2Proof.core j s = .next t) (hi : t.input = r :: rest)
    (hd : decode (assemble t.pending t.latchLo r) = .ok i)
    (hx : exec i { t with input := rest } = .next u) :
    Host.Core.run Sys2Proof.core (j + 1) s = .next u := by
  have last : step t = .next u := (step_of_decode hi hd).trans hx
  exact (run_add_of_next 1 h).trans ((run_one (M := Sys2Proof.core) t).trans last)

/-- `OUT (0xBE), v` is a data write, whatever the latch holds (R301). -/
theorem decode_dataWrite (pend : Bool) (lo v : Byte) :
    decode (assemble pend lo (reqOut 0xBE#8 v)) = .ok (.ioWrData 0xBE#8 v) := by
  have data : ¬ isControlWrite (busWord 3#2 (portAddr 0xBE#8) v) = true := fun h =>
    absurd ((isControlWrite_busWord _ _ v).mp h) (by decide)
  rw [reqOut, assemble_bus_of_not_control data, decode, decodeBus_port_write, setWidth_portAddr]
  rfl

/-- `IN (0xBE)` is a data read, whatever the latch holds (R301). -/
theorem decode_dataRead (pend : Bool) (lo : Byte) :
    decode (assemble pend lo (reqIn 0xBE#8)) = .ok (.ioRdData 0xBE#8) := by
  rw [reqIn, assemble_bus_of_not_control (by decide), decode, decodeBus_port_read, setWidth_portAddr]
  rfl

section
variable {s : State} {rest : List Request}

/-- The two bytes of VDPCMD c, a run its command word (R346). -/
theorem run_pseudoVdpCmd (hr : s.running = true) (hp : s.pending = false) (c : BitVec 2)
    (a : BitVec 14) (hi : s.input = pseudoVdpCmd c a ++ rest) :
    Host.Core.run Sys2Proof.core 2 s = .next (State.execCommand
      { s with input := rest, latchLo := a.extractLsb' 0 8, pending := false } c a) := by
  rw [run_two_control_bytes _ _ hr hp hi, commandWord_pseudoVdpCmd, exec_decodeCommand,
    whileRunning_of_running (by exact hr)]
  show Host.Outcome.next (State.execCommand _ (cmdCode (mkCommand c a)) (cmdAddr (mkCommand c a))) = _
  rw [cmdCode_mkCommand, cmdAddr_mkCommand]
  rfl

/-- An address latched with the write code and a byte written through the data port (R513, R520). -/
theorem run_vramWrite (hr : s.running = true) (hp : s.pending = false) (a : BitVec 14) (v : Byte)
    (hi : s.input = pseudoVramW a ++ reqOut 0xBE#8 v :: rest) :
    ∃ t, Host.Core.run Sys2Proof.core 3 s = .next t ∧ t.running = true ∧ t.pending = false ∧
      t.input = rest ∧ t.vram.read a.toNat = v := by
  have latch := run_pseudoVdpCmd hr hp 1#2 a hi
  refine ⟨_, run_succ_of_exec latch rfl (decode_dataWrite _ _ v) (exec_ioWrData (by exact hr) _ v),
    hr, rfl, rfl, ?_⟩
  show (s.vram.write ((a.setWidth 16).toNat % 16384) v).read a.toNat = v
  rw [← vIdx_eq, vIdx_commandAddress, read_write, if_pos rfl]

/-- An address latched with the read code and a byte read through the data port (R511, R522). -/
theorem run_vramRead (hr : s.running = true) (hp : s.pending = false) (a : BitVec 14)
    (hi : s.input = pseudoVramR a ++ reqIn 0xBE#8 :: rest) :
    ∃ t, Host.Core.run Sys2Proof.core 3 s = .next t ∧ t.reply = .byte (s.vram.read a.toNat) ∧
      t.input = rest := by
  have latch := run_pseudoVdpCmd hr hp 0#2 a hi
  refine ⟨_, run_succ_of_exec latch rfl (decode_dataRead _ _) (exec_ioRdData (by exact hr) _), ?_, rfl⟩
  show Reply.byte (s.vram.read (vIdx (a.setWidth 16))) = _
  rw [vIdx_commandAddress]

end

/-- Settles O39: the write through the data port, then the read, at one address. -/
theorem writtenByteIsReadBackThroughTheBuffer : Obligations.WrittenByteIsReadBackThroughTheBuffer := by
  intro a v rest s hr hp hi
  obtain ⟨t, write, running, pending, input, written⟩ :=
    run_vramWrite hr hp a v (rest := pseudoVramR a ++ reqIn 0xBE#8 :: rest) (hi.trans (by simp))
  obtain ⟨u, read, reply, left⟩ := run_vramRead running pending a input
  exact ⟨u, (run_add_of_next 3 write).trans read, reply.trans (by rw [written]), left⟩

end Sys2Proof.Proofs
end

section
/-! SUPPORT. The renderer on plain numbers: the line mode's bits, the addresses it reads, the background pixel, and
what RenderLine and READ_FB make of the framebuffer (O45 to O49). -/

namespace Sys2Proof.Proofs

open Machine Laws

/-! ## Bits as quotients and remainders -/

theorem getLsbD_toNat {w : Nat} (b : BitVec w) (i : Nat) :
    (b.getLsbD i).toNat = b.toNat / 2 ^ i % 2 :=
  Nat.toNat_testBit b.toNat i

theorem getLsbD_iff {w : Nat} (b : BitVec w) (i : Nat) :
    b.getLsbD i = true ↔ b.toNat / 2 ^ i % 2 = 1 := by
  rw [BitVec.getLsbD, Nat.testBit_eq_decide_div_mod_eq, decide_eq_true_eq]

/-! ## Line mode (R600) -/

/-- M4 = M2 = 1 in register 0. -/
theorem reg0_mask_iff : ∀ b : Byte,
    b &&& 0x06#8 = 0x06#8 ↔ b.getLsbD 2 = true ∧ b.getLsbD 1 = true := by decide

/-- M1 = 1 and M3 = 0 in register 1. -/
theorem reg1_mask_iff_m1 : ∀ b : Byte,
    b &&& 0x18#8 = 0x10#8 ↔ b.getLsbD 4 = true ∧ b.getLsbD 3 = false := by decide

/-- M3 = 1 and M1 = 0 in register 1. -/
theorem reg1_mask_iff_m3 : ∀ b : Byte,
    b &&& 0x18#8 = 0x08#8 ↔ b.getLsbD 3 = true ∧ b.getLsbD 4 = false := by decide

/-- Settles O45, branch by branch of R600. -/
theorem lineModeFollowsTheModeBits : Obligations.LineModeFollowsTheModeBits := by
  intro s
  rw [reg0_mask_iff, reg1_mask_iff_m1, reg1_mask_iff_m3]
  unfold State.lineMode lineModeOf
  split
  next m1 => simp_all
  next not_m1 =>
    split
    next m3 => cases s.config.region <;> simp_all
    next not_m3 => simp_all

/-! ## Addresses (R611 to R615) -/

theorem hScroll_eq (s : State) (line : Nat) :
    s.hScroll line = if (s.reg 0).toNat / 64 % 2 = 1 ∧ line < 16 then 0 else (s.reg 8).toNat :=
  if_congr (by rw [Bool.and_eq_true, decide_eq_true_eq, getLsbD_iff]; rfl) rfl rfl

theorem vScroll_eq (s : State) (x : Nat) :
    s.vScroll x = if (s.reg 0).toNat / 128 % 2 = 1 ∧ 192 ≤ x then 0 else (s.reg 9).toNat :=
  if_congr (by rw [Bool.and_eq_true, decide_eq_true_eq, getLsbD_iff]; rfl) rfl rfl

theorem hScroll_lt (s : State) (line : Nat) : s.hScroll line < 256 := by
  unfold State.hScroll
  split
  · decide
  · exact (s.reg 8).isLt

/-- R614's non-negative remainder: the 256 added before the subtraction does not show, as hs is a byte. -/
theorem bgX_eq (s : State) (line x : Nat) :
    s.bgX line x = (((x : Int) - (s.hScroll line : Int)) % 256).toNat := by
  have := hScroll_lt s line
  unfold State.bgX
  omega

theorem wrapHeight_eq (m : LineMode) : wrapHeight m = if m != .lines192 then 256 else 224 := by
  cases m <;> rfl

theorem nameTable_mask_lines192 : ∀ b : Byte,
    (b &&& 0x0E#8).toNat <<< 10 = b.toNat / 2 % 8 * 0x0800 := by decide

theorem nameTable_mask_tall : ∀ b : Byte,
    ((b &&& 0x0C#8).toNat <<< 10) ||| 0x0700 = b.toNat / 4 % 4 * 0x1000 + 0x0700 := by decide

theorem nameTableBase_eq (b : Byte) (m : LineMode) :
    nameTableBase b m =
      if m != .lines192 then b.toNat / 4 % 4 * 0x1000 + 0x0700 else b.toNat / 2 % 8 * 0x0800 := by
  cases m
  · exact nameTable_mask_lines192 b
  · exact nameTable_mask_tall b
  · exact nameTable_mask_tall b

/-- R614's sum before its mask: the mask never changes it. -/
theorem nameTable_sum_le (s : State) (line x : Nat) :
    nameTableBase (s.reg 2) s.lineMode + (s.bgY line x / 8 * 32 + s.bgX line x / 8) * 2 ≤ 0x3EFE := by
  have hx : s.bgX line x < 256 := Nat.mod_lt _ (by decide)
  have hy : s.bgY line x < wrapHeight s.lineMode :=
    Nat.mod_lt _ (by cases s.lineMode <;> decide)
  rw [wrapHeight_eq] at hy
  rw [nameTableBase_eq]
  by_cases tall : (s.lineMode != .lines192) = true
  · rw [if_pos tall] at hy ⊢
    omega
  · rw [if_neg tall] at hy ⊢
    omega

theorem descAddr_eq (s : State) (line x : Nat) :
    s.descAddr line x =
      nameTableBase (s.reg 2) s.lineMode + (s.bgY line x / 8 * 32 + s.bgX line x / 8) * 2 :=
  Nat.mod_eq_of_lt (Nat.lt_of_le_of_lt (nameTable_sum_le s line x) (by decide))

theorem nameTableBase_even (b : Byte) (m : LineMode) : nameTableBase b m % 2 = 0 := by
  rw [nameTableBase_eq]
  split <;> omega

theorem patternRow_eq (desc : Word16) (fy : Nat) :
    patternRow desc fy =
      desc.toNat % 512 * 32 + (if desc.toNat / 1024 % 2 = 1 then 7 - fy else fy) * 4 := by
  have pattern : descPattern desc = desc.toNat % 512 := BitVec.extractLsb'_toNat ..
  have flip : descVFlip desc = true ↔ desc.toNat / 1024 % 2 = 1 := getLsbD_iff desc 10
  rw [patternRow, pattern, if_congr flip rfl rfl]

/-- Settles O48: the sum of R614 is even and below its mask, and 512 patterns of 32 bytes fill VRAM. -/
theorem rendererAddressesStayInVram : Obligations.RendererAddressesStayInVram := by
  intro line x fy s desc hf
  have even := nameTableBase_even (s.reg 2) s.lineMode
  have bound := nameTable_sum_le s line x
  rw [descAddr_eq, patternRow_eq]
  refine ⟨by omega, bound, ?_⟩
  split <;> omega

/-! ## The background pixel (R614 to R618) -/

theorem descAt_toNat (s : State) {e : Nat} (he : e + 1 < 0x4000) :
    (s.descAt e).toNat = (s.vram.read (e + 1)).toNat * 256 + (s.vram.read e).toNat := by
  rw [State.descAt, Nat.mod_eq_of_lt he]
  exact commandWord_toNat _ _

theorem patternColumn_eq (desc : Word16) (fx : Nat) :
    patternColumn desc fx = if desc.toNat / 512 % 2 = 1 then 7 - fx else fx :=
  if_congr (getLsbD_iff desc 9) rfl rfl

theorem planeIndex_eq (s : State) (pa px : Nat) :
    s.planeIndex pa px =
      (s.vram.read pa).toNat / 2 ^ (7 - px) % 2 + 2 * ((s.vram.read (pa + 1)).toNat / 2 ^ (7 - px) % 2) +
        4 * ((s.vram.read (pa + 2)).toNat / 2 ^ (7 - px) % 2) +
        8 * ((s.vram.read (pa + 3)).toNat / 2 ^ (7 - px) % 2) := by
  simp only [State.planeIndex, colourIndex, getLsbD_toNat]

/-- The secondary palette starts 16 entries on (R617). -/
theorem paletteOffset_eq (desc : Word16) :
    (if descPalette desc then 16 else 0) = 16 * (desc.toNat / 2048 % 2) := by
  rw [show desc.toNat / 2048 % 2 = (descPalette desc).toNat from (getLsbD_toNat desc 11).symm]
  cases descPalette desc <;> rfl

theorem scaleComponent_toNat : ∀ v : BitVec 2, (scaleComponent v).toNat = v.toNat * 85 := by decide

theorem cramColour_toNat (c : Byte) :
    (cramColour c).r.toNat = c.toNat % 4 * 85 ∧ (cramColour c).g.toNat = c.toNat / 4 % 4 * 85 ∧
      (cramColour c).b.toNat = c.toNat / 16 % 4 * 85 := by
  simp [cramColour, scaleComponent_toNat, Nat.shiftRight_eq_div_pow]

/-- Settles O47: each step of the renderer is the rule's arithmetic on plain numbers. -/
theorem backgroundPixelFollowsTheRules : Obligations.BackgroundPixelFollowsTheRules := by
  intro line x s _
  have inside : s.descAddr line x + 1 < 0x4000 := by
    have := nameTable_sum_le s line x
    rw [descAddr_eq]
    omega
  obtain ⟨red, green, blue⟩ := cramColour_toNat (s.cram.read
    (s.paletteIndex (s.descAt (s.descAddr line x)) (s.bgX line x % 8) (s.bgY line x % 8)))
  rw [State.bgPixel, red, green, blue, State.paletteIndex, planeIndex_eq, paletteOffset_eq, patternRow_eq,
    patternColumn_eq, descAt_toNat s inside, descAddr_eq, bgX_eq, State.bgY, hScroll_eq, vScroll_eq,
    wrapHeight_eq, nameTableBase_eq]
  rfl

/-! ## The framebuffer (R605, R610, R620) -/

/-- Settles O46. -/
theorem renderLinePaintsBlankOrBackground : Obligations.RenderLinePaintsBlankOrBackground := by
  intro line s
  refine ⟨fun past => if_pos past, fun active => ⟨renderLine_frame s line, fun x y k hx hk => ?_⟩⟩
  rw [renderLine_read s line x y k hx hk]
  by_cases row : y = line
  · subst row
    rw [if_pos ⟨active, rfl⟩, if_pos rfl]
    rfl
  · rw [if_neg (fun h => row h.2), if_neg row]

/-- READ_FB's bytes are the framebuffer's below row LM, and 0 from there on (R620). -/
theorem frameBytes_read (s : State) (off : Nat) :
    s.frameBytes.read off = if off < s.lineMode.height * 768 then s.fb.read off else 0#8 := by
  have rows : fbOffset 0 s.activeHeight = s.lineMode.height * 768 := by
    unfold fbOffset State.activeHeight
    omega
  exact (read_filter s.fb (fun a => decide (a < fbOffset 0 s.activeHeight)) off).trans
    (if_congr (by rw [decide_eq_true_eq, rows]) rfl rfl)

/-- Settles O49. -/
theorem readFbReturnsTheActiveRows : Obligations.ReadFbReturnsTheActiveRows :=
  fun s hr => ⟨s.frameBytes, whileRunning_of_running hr _, frameBytes_read s⟩

end Sys2Proof.Proofs
end

section
/-! SUPPORT. TICK as a run of line crossings: the line each one reaches, the vblank flag, and the rows painted (O41 to
O44). -/

namespace Sys2Proof.Proofs

open Machine Laws

/-! ## What the crossings leave -/

/-- The last of `k + 1` crossings starts where the first `k` end. -/
theorem crossLines_succ (k : Nat) (s : State) (b : Bool) :
    State.crossLines (k + 1) s b =
      ((State.crossLines k s b).1.crossLine.1,
        (State.crossLines k s b).2 || (State.crossLines k s b).1.crossLine.2) :=
  crossLines_add k 1 s b

theorem crossLines_running (k : Nat) (s : State) (b : Bool) :
    (State.crossLines k s b).1.running = s.running :=
  (congrArg State.running (crossLines_frame k s b) :)

theorem crossLines_config (k : Nat) (s : State) (b : Bool) :
    (State.crossLines k s b).1.config = s.config :=
  (congrArg State.config (crossLines_frame k s b) :)

theorem crossLines_activeHeight (k : Nat) (s : State) (b : Bool) :
    (State.crossLines k s b).1.activeHeight = s.activeHeight :=
  (congrArg State.activeHeight (crossLines_frame k s b) :)

/-- The renderer reads nothing that a crossing changes (R605). -/
theorem crossLines_linePixel (k : Nat) (s : State) (b : Bool) :
    (State.crossLines k s b).1.linePixel = s.linePixel :=
  (congrArg State.linePixel (crossLines_frame k s b) :)

/-- Crossings neither read nor change `h` and the reply. -/
theorem crossLines_setH_reply (k : Nat) (s : State) (x : Nat) (r : Reply) (b : Bool) :
    State.crossLines k { s with h := x, reply := r } b =
      ({ (State.crossLines k s b).1 with h := x, reply := r }, (State.crossLines k s b).2) := by
  rw [← show ({ s.answer r with h := x } : State) = { s with h := x, reply := r } from rfl,
    crossLines_setH, crossLines_answer]
  rfl

/-- Modulo LINES_PER_FRAME the line advances by one a crossing (R602). -/
theorem crossLines_line_modEq (k : Nat) (s : State) (b : Bool) :
    (State.crossLines k s b).1.line ≡ s.line + k [MOD s.config.linesPerFrame] := by
  induction k with
  | zero => rfl
  | succ k ih =>
    rw [crossLines_succ, crossLine_line, crossLines_config]
    exact (Nat.mod_modEq _ _).trans (ih.add_right 1)

/-- From a line of the frame the crossings stay inside the frame. -/
theorem crossLines_line {s : State} (hl : s.line < s.config.linesPerFrame) (k : Nat) (b : Bool) :
    (State.crossLines k s b).1.line = (s.line + k) % s.config.linesPerFrame := by
  have below := crossLines_keeps (P := LineBelow s.config.linesPerFrame)
    (fun _ => crossLine_lineBelow) k (b := b) ⟨rfl, hl⟩
  exact (Nat.mod_eq_of_lt below.2).symm.trans (crossLines_line_modEq k s b)

/-- TICK's result: some crossing reaches the line number active_height (R602, R604). -/
theorem crossLines_vblank (k : Nat) (s : State) :
    (State.crossLines k s false).2 = true ↔
      ∃ j, j < k ∧ (s.line + (j + 1)) % s.config.linesPerFrame = s.activeHeight := by
  induction k with
  | zero => exact ⟨nofun, fun ⟨_, hj, _⟩ => absurd hj (Nat.not_lt_zero _)⟩
  | succ k ih =>
    have reached : ((State.crossLines k s false).1.line + 1) % s.config.linesPerFrame =
        (s.line + (k + 1)) % s.config.linesPerFrame :=
      (crossLines_line_modEq k s false).add_right 1
    rw [crossLines_succ, Bool.or_eq_true, ih, (crossLine_vblank _).1, decide_eq_true_eq,
      crossLines_config, crossLines_activeHeight, reached, Nat.exists_lt_succ_right]

/-- The status register is or-ed with 0x80 exactly when the result is true (R604). -/
theorem crossLines_status_eq (k : Nat) (s : State) :
    (State.crossLines k s false).1.status =
      if (State.crossLines k s false).2 then setF s.status else s.status := by
  induction k with
  | zero => rfl
  | succ k ih =>
    rw [crossLines_succ]
    dsimp only
    rw [(crossLine_vblank _).2, ih]
    cases (State.crossLines k s false).1.crossLine.2 with
    | false => rw [Bool.or_false]; rfl
    | true =>
      rw [Bool.or_true, if_pos rfl, if_pos rfl]
      split
      · exact setF_setF _
      · rfl

/-- A pixel of row `y` is the renderer's exactly where `y` is an active line among the completed ones (R602, R605). -/
theorem crossLines_fb_read {s : State} (hl : s.line < s.config.linesPerFrame) (n : Nat) {x y k : Nat}
    (hx : x < 256) (hk : k < 3) :
    (State.crossLines n s false).1.fb.read (fbOffset x y + k) =
      if y < s.activeHeight ∧ ∃ j, j < n ∧ (s.line + j) % s.config.linesPerFrame = y then
        (s.linePixel y x).component k
      else s.fb.read (fbOffset x y + k) := by
  induction n with
  | zero => rw [if_neg (fun ⟨_, _, hj, _⟩ => absurd hj (Nat.not_lt_zero _))]; rfl
  | succ n ih =>
    rw [crossLines_succ]
    dsimp only
    rw [crossLine_fb, renderLine_read _ _ _ _ _ hx hk, crossLines_activeHeight, crossLines_linePixel,
      crossLines_line hl, ih]
    by_cases last : (s.line + n) % s.config.linesPerFrame = y
    · subst last
      by_cases active : (s.line + n) % s.config.linesPerFrame < s.activeHeight
      · rw [if_pos ⟨active, rfl⟩]
        exact (if_pos ⟨active, n, n.lt_succ_self, rfl⟩).symm
      · rw [if_neg (fun h => active h.1), if_neg (fun h => active h.1), if_neg (fun h => active h.1)]
    · rw [if_neg (fun h => last h.2.symm)]
      simp only [Nat.exists_lt_succ_right, last, or_false]

/-! ## The statements about TICK -/

/-- Settles O41: the crossings advance the line; with less than a line of units there is none. -/
theorem tickAdvancesTheRaster : Obligations.TickAdvancesTheRaster := by
  intro n s hr hraster
  refine ⟨⟨_, exec_tick n hr, rfl, crossLines_line hraster.2 _ false, tick_frame (exec_tick n hr)⟩,
    fun short => ?_⟩
  rw [exec_tick n hr, Nat.div_eq_of_lt short, Nat.mod_eq_of_lt short]
  rfl

/-- Settles O42. The k-th crossing is the one with k - 1 before it. -/
theorem tickSignalsVblankExactlyAtTheBoundary : Obligations.TickSignalsVblankExactlyAtTheBoundary := by
  intro n s hr
  refine ⟨_, _, exec_tick n hr, rfl, (crossLines_vblank _ s).trans ⟨?_, ?_⟩, crossLines_status_eq _ s⟩
  · rintro ⟨j, hj, e⟩
    exact ⟨j + 1, by omega, by omega, e⟩
  · rintro ⟨k, pos, hk, e⟩
    exact ⟨k - 1, by omega, by rwa [Nat.sub_add_cancel pos]⟩

/-- Settles O43. -/
theorem tickPaintsExactlyTheCompletedLines : Obligations.TickPaintsExactlyTheCompletedLines := by
  intro n s hr hraster
  refine ⟨_, exec_tick n hr, fun x y k hx hk => ?_⟩
  have painted := crossLines_fb_read hraster.2 ((s.h + n) / 684) (y := y) hx hk
  exact ⟨fun h => painted.trans (if_pos h), fun h => painted.trans (if_neg h)⟩

/-- TICK goes on from the crossings of the TICK before, whatever `h` and reply that one left. -/
theorem exec_tick_setH_reply (n : Nat) {s : State} (hr : s.running = true) (x : Nat) (r : Reply) :
    exec (.tick n) { s with h := x, reply := r } =
      .next { (State.crossLines ((x + n) / 684) s false).1 with
        h := (x + n) % 684
        reply := .vblank (State.crossLines ((x + n) / 684) s false).2 } := by
  rw [exec_tick n (by exact hr), crossLines_setH_reply]

/-- Settles O44: the crossings of the parts add up to the whole's, since no crossing reads `h` or the reply. -/
theorem tickSplitsIntoParts : Obligations.TickSplitsIntoParts := by
  intro m n s hr
  have crossings : (s.h + (m + n)) / 684 = (s.h + m) / 684 + ((s.h + m) % 684 + n) / 684 := by omega
  have remainder : (s.h + (m + n)) % 684 = ((s.h + m) % 684 + n) % 684 := by omega
  refine ⟨_, _, _, _, exec_tick m hr, rfl,
    exec_tick_setH_reply n ((crossLines_running _ s false).trans hr) _ _, rfl, ?_⟩
  rw [exec_tick (m + n) hr, crossings, remainder, crossLines_add,
    crossLines_or _ _ (State.crossLines ((s.h + m) / 684) s false).2]

end Sys2Proof.Proofs
end

section
/-! SUPPORT. The port decode: a port transaction's row depends on its port alone (R701, O6), and the ignored ports
and the counter writes change nothing (R702 to R704, O37). -/

namespace Sys2Proof.Proofs

open Machine Laws

/-- A port read decodes by the low byte of its address alone (R701). -/
theorem decodeBus_port_read_append (hi p d : Byte) :
    decodeBus (busWord 2#2 (hi ++ p) d) = portRead p := by
  rw [decodeBus_port_read, BitVec.setWidth_append_eq_right]

/-- A port write decodes by the low byte of its address and its data (R701). -/
theorem decodeBus_port_write_append (hi p v : Byte) :
    decodeBus (busWord 3#2 (hi ++ p) v) = portWrite p v := by
  rw [decodeBus_port_write, BitVec.setWidth_append_eq_right]

/-- Settles O6, kind by kind. -/
theorem upperAddressByteIgnoredByPorts : Obligations.UpperAddressByteIgnoredByPorts := by
  rintro k hi hi' p d (rfl | rfl)
  · rw [decodeBus_port_read_append, decodeBus_port_read_append]
  · rw [decodeBus_port_write_append, decodeBus_port_write_append]

/-- Settles O37: the reads answer with a free draw, the writes with the state as it was. -/
theorem ignoredPortsAndCounterWritesChangeNothing :
    Obligations.IgnoredPortsAndCounterWritesChangeNothing := by
  intro p v s hr
  have draw : s.whileRunning (.next s.answerDrawn) = .next s.answerDrawn := whileRunning_of_running hr _
  have drop : s.whileRunning (.next s) = .next s := whileRunning_of_running hr _
  exact ⟨draw, draw, drop, drop, drop⟩

end Sys2Proof.Proofs
end

section
/-! SUPPORT. Running, completion and refusal: what the running flag admits (O10, O11), that no step faults from a
loadable configuration (O12), who changes the run (O53), and the reserved host numbers (O7). -/

namespace Sys2Proof.Proofs

open Machine Laws

/-! ## What the running flag decides -/

/-- The operations that do not read the flag are LOAD and the reserved numbers, refused in every state (R803, R806). -/
theorem load_or_refused_of_not_needsRunning {i : Instr} (hi : i.needsRunning = false) :
    (∃ c, i = .load c) ∨ ∀ s, exec i s = .refused .unknownHostOp := by
  cases i with
  | load c => exact .inl ⟨c, rfl⟩
  | hostReserved5 | hostReserved67 => exact .inr fun _ => rfl
  | _ => cases hi

theorem exec_of_idle {i : Instr} {s : State} (hi : i.needsRunning = true) (hr : s.running = false) :
    exec i s = .refused .notRunning := by
  cases i with
  | load | hostReserved5 | hostReserved67 => cases hi
  | _ => exact whileRunning_of_idle hr _

/-- An operation other than LOAD answers a next state only of a running block (R803). -/
theorem running_of_next {i : Instr} {s t : State} (h : exec i s = .next t) (hl : ∀ c, i ≠ .load c) :
    s.running = true := by
  by_contra hr
  cases hi : i.needsRunning with
  | true =>
    rw [exec_of_idle hi (eq_false_of_ne_true hr)] at h
    cases h
  | false =>
    obtain ⟨c, rfl⟩ | refused := load_or_refused_of_not_needsRunning hi
    · exact hl c rfl
    · rw [refused s] at h
      cases h

theorem load_answers (c : Configuration) (s : State) : ∃ t, exec (.load c) s = .next t := by
  change ∃ t, execLoad c s = .next t
  unfold execLoad
  split_ifs <;> exact ⟨_, rfl⟩

theorem needsRunning_of_isBus {i : Instr} (hi : i.isBus = true) : i.needsRunning = true := by
  cases i with
  | load | hostReserved5 | hostReserved67 => cases hi
  | _ => rfl

/-! ## Completion -/

section
variable {s : State} (hr : s.running = true)
include hr

/-- Under RomOnly every memory write is a RAM write or dropped (R411, R413, R415). -/
theorem memoryWrite_answers_of_romOnly (hk : s.config.mapperKind = .romOnly) {i : Instr}
    (hi : writesMemory i = true) : ∃ t, exec i s = .next t := by
  cases i with
  | memWr a v => exact ⟨_, exec_memWr_of_romOnly hr hk a v⟩
  | memWrFffc v => exact ⟨_, exec_busWrite_of_romOnly hr hk (a := 0xFFFC#16) (by decide) v⟩
  | memWrFffd v => exact ⟨_, exec_busWrite_of_romOnly hr hk (a := 0xFFFD#16) (by decide) v⟩
  | memWrFffe v => exact ⟨_, exec_busWrite_of_romOnly hr hk (a := 0xFFFE#16) (by decide) v⟩
  | memWrFfff v => exact ⟨_, exec_busWrite_of_romOnly hr hk (a := 0xFFFF#16) (by decide) v⟩
  | _ => cases hi

/-- Under SegaBanked a bank copy answers because every page index selects a page of the image (R401, R801). -/
theorem memoryWrite_answers_of_sega (hk : s.config.mapperKind = .segaBanked)
    (hw : ConfigWellFormed s.config) {i : Instr} (hi : writesMemory i = true) :
    ∃ t, exec i s = .next t := by
  have page : ∀ p, pageInImage s.config (pageOf s.config p) = true := pageInImage_of_wellFormed hk hw
  cases i with
  | memWr a v => exact ⟨_, exec_memWr_of_sega hr hk a v⟩
  | memWrFffc v =>
    cases hv : ramEnable v with
    | true => exact ⟨_, exec_memWrFffc_of_ram hr hk hv⟩
    | false => exact ⟨_, exec_memWrFffc_of_rom hr hk hv (page s.slot2Page)⟩
  | memWrFffd v => exact ⟨_, exec_memWrFffd_of_sega hr hk v⟩
  | memWrFffe v => exact ⟨_, exec_memWrFffe_of_sega hr hk (page v)⟩
  | memWrFfff v =>
    cases hc : ramEnable s.ramCtl with
    | true => exact ⟨_, exec_memWrFfff_of_ram hr hk hc v⟩
    | false => exact ⟨_, exec_memWrFfff_of_rom hr hk hc (page v)⟩
  | _ => cases hi

/-- A running block with a well-formed configuration completes every operation that needs it to run (R805). -/
theorem exec_answers_of_running (hw : ConfigWellFormed s.config) {i : Instr}
    (hi : i.needsRunning = true) : ∃ t, exec i s = .next t := by
  cases i with
  | memWr | memWrFffc | memWrFffd | memWrFffe | memWrFfff =>
    cases hk : s.config.mapperKind with
    | romOnly => exact memoryWrite_answers_of_romOnly hr hk rfl
    | segaBanked => exact memoryWrite_answers_of_sega hr hk hw rfl
  | ioWrCtrl p v =>
    cases hp : s.pending with
    | true => exact ⟨_, ioWrCtrl_of_pending hr hp⟩
    | false => exact ⟨_, ioWrCtrl_of_not_pending hr hp⟩
  | load | hostReserved5 | hostReserved67 => cases hi
  | _ => exact ⟨_, whileRunning_of_running hr _⟩

end

/-! ## Faults -/

/-- With a loadable configuration an operation answers a next state or a refusal, never a fault (R801). -/
theorem exec_ne_fault {i : Instr} {s : State} (hs : ConfigLoadable s) (f : Fault) :
    exec i s ≠ .fault f := by
  cases hi : i.needsRunning with
  | true =>
    cases hr : s.running with
    | true =>
      obtain ⟨t, e⟩ := exec_answers_of_running hr (hs hr) hi
      rw [e]
      exact nofun
    | false =>
      rw [exec_of_idle hi hr]
      exact nofun
  | false =>
    obtain ⟨c, rfl⟩ | refused := load_or_refused_of_not_needsRunning hi
    · obtain ⟨t, e⟩ := load_answers c s
      rw [e]
      exact nofun
    · rw [refused s]
      exact nofun

/-- A fault of the step is a fault of the waiting operation's instruction (R230). -/
theorem step_fault {s : State} {f : Fault} (h : step s = .fault f) :
    ∃ i rest, exec i { s with input := rest } = .fault f := by
  unfold step at h
  split at h
  · cases h
  · rename_i r rest _
    split at h
    · rename_i i _
      exact ⟨i, rest, h⟩
    · cases h

/-! ## The run -/

/-- LOAD apart, no operation changes the configuration, the run state or the fault record (R804). -/
theorem exec_keeps_run {i : Instr} {s t : State} (h : exec i s = .next t) (hl : ∀ c, i ≠ .load c) :
    t.config = s.config ∧ t.running = s.running ∧ t.fault = s.fault := by
  cases exec_effect h with
  | load c => exact absurd rfl (hl c)
  | _ => exact ⟨rfl, rfl, rfl⟩

/-! ## The reserved host numbers -/

/-- The reserved numbers decode whatever their argument, to operations that are refused (R315, R806). -/
theorem decodeHost_reserved {op : BitVec 3} (h : 5#3 ≤ op) (arg : HostArg) :
    ∃ i, decodeHost op arg = .ok i ∧ ∀ s, exec i s = .refused .unknownHostOp := by
  have reserved : ∀ op : BitVec 3, 5#3 ≤ op → op = 5#3 ∨ op = 6#3 ∨ op = 7#3 := by decide
  obtain rfl | rfl | rfl := reserved op h
  · exact ⟨.hostReserved5, rfl, fun _ => rfl⟩
  · exact ⟨.hostReserved67 false, rfl, fun _ => rfl⟩
  · exact ⟨.hostReserved67 true, rfl, fun _ => rfl⟩

/-! ## The statements -/

/-- Settles O10: the refusals of the idle block, and LOAD branch by branch. -/
theorem idleBlockAcceptsOnlyLoad : Obligations.IdleBlockAcceptsOnlyLoad :=
  ⟨fun _ _ hi hr => exec_of_idle hi hr, load_answers⟩

/-- Settles O11: a bus transaction is one of the operations that need the block to run. -/
theorem runningBusTransactionsComplete : Obligations.RunningBusTransactionsComplete :=
  fun _ _ hr hc hi => exec_answers_of_running hr (hc hr) (needsRunning_of_isBus hi)

/-- Settles O12: a step faults only where its instruction does, and taking the request off the queue leaves the
configuration loadable. -/
theorem noStepFaultsFromALoadableConfiguration : Obligations.NoStepFaultsFromALoadableConfiguration := by
  intro s hs f h
  obtain ⟨i, rest, e⟩ := step_fault h
  exact exec_ne_fault (s := { s with input := rest }) hs f e

/-- Settles O53: what an effect other than LOAD's keeps, and a block that completes an operation runs, so its
fault record is empty. -/
theorem onlyLoadChangesTheRun : Obligations.OnlyLoadChangesTheRun := by
  intro i s t h hl
  obtain ⟨config, running, fault⟩ := exec_keeps_run h hl
  refine ⟨config, running, fault, fun stops => by_contra fun hf => ?_⟩
  have idle : s.running = false := stops hf
  exact ne_true_of_eq_false idle (running_of_next h hl)

/-- Settles O7: the reserved numbers one by one. -/
theorem reservedHostOpsAreRefused : Obligations.ReservedHostOpsAreRefused := by
  intro s arg op h
  obtain ⟨i, decoded, refused⟩ := decodeHost_reserved h arg
  exact ⟨i, decoded, refused s⟩

end Sys2Proof.Proofs
end

section
/-! SUPPORT. The state a valid LOAD leaves: every field at its reset value with MEM as the mapper maps the image
(O51), and nothing of the state before it (O52). -/

namespace Sys2Proof.Proofs

open Machine Laws

/-! ## MEM after LOAD -/

/-- Under RomOnly MEM holds the image from 0 on, and 0x00 past it (R440). -/
theorem loaded_mem_read_of_romOnly {c : Configuration} (s : State) (hk : c.mapperKind = .romOnly)
    (b : Nat) : (s.loaded c).mem.read b = romByte c b := by
  have installed : (s.loaded c).mem = romOnlyMem c := by
    change initialMem c = romOnlyMem c
    rw [initialMem, hk]
  rw [installed, romOnlyMem_read]

/-- Under SegaBanked the slots hold pages 0, 1 and 2, each modulo the bank count, and the RAM holds 0x00 (R441). -/
theorem loaded_mem_read_of_sega {c : Configuration} (s : State) (hk : c.mapperKind = .segaBanked)
    (hw : ConfigWellFormed c) (b : Nat) :
    (s.loaded c).mem.read b =
      if b < 0x4000 then romByte c b
      else if b < 0x8000 then romByte c (1 % c.bankCount * 0x4000 + (b - 0x4000))
      else if b < 0xC000 then romByte c (2 % c.bankCount * 0x4000 + (b - 0x8000))
      else 0#8 := by
  have installed : (s.loaded c).mem = segaMem c := by
    change initialMem c = segaMem c
    rw [initialMem, hk]
  have page1 : pageOf c 1#8 = 1 % c.bankCount := rfl
  have page2 : pageOf c 2#8 = 2 % c.bankCount := rfl
  rw [installed, segaMem_read hk hw, page1, page2]
  rcases (by omega : b < 0x4000 ∨ (0x4000 ≤ b ∧ b < 0x8000) ∨ (0x8000 ≤ b ∧ b < 0xC000) ∨ 0xC000 ≤ b)
    with slot0 | slot1 | slot2 | ram
  · rw [if_neg (by omega), if_neg (by omega), if_pos slot0, if_pos slot0]
  · rw [if_neg (by omega), if_pos slot1, if_neg (by omega), if_pos slot1.2]
  · rw [if_pos slot2, if_neg (by omega), if_neg (by omega), if_pos slot2.2]
  · rw [if_neg (by omega), if_neg (by omega), if_neg (by omega), if_neg (by omega),
      if_neg (by omega), if_neg (by omega)]

/-! ## The statements -/

/-- Two states with the same waiting operations and count of draws are loaded alike: no other field is kept (R902). -/
theorem loaded_congr {s s' : State} (c : Configuration) (hi : s.input = s'.input)
    (hd : s.draws = s'.draws) : s.loaded c = s'.loaded c := by
  rw [State.loaded, State.loaded, hi, hd]

/-- Settles O51: the fields of the loaded state are those of the reset state, and MEM is read slot by slot. -/
theorem validLoadSetsTheResetValues : Obligations.ValidLoadSetsTheResetValues := by
  intro c s h
  refine ⟨s.loaded c, load_of_accepts h s, rfl, rfl, rfl, fun _ => ⟨rfl, rfl, rfl, rfl⟩, reset_reg,
    rfl, rfl, rfl, rfl, rfl, rfl, rfl, rfl, rfl, rfl, rfl, fun hk => ?_, fun hk => ?_⟩
  · exact loaded_mem_read_of_romOnly s hk
  · exact loaded_mem_read_of_sega s hk h.2

/-- Settles O52: LOAD answers the loaded state, which reads only the queue and the draws of the state before. -/
theorem reloadLeaksNothing : Obligations.ReloadLeaksNothing := by
  intro c s s' h hi hd
  rw [load_of_accepts h, load_of_accepts h, loaded_congr c hi hd]

end Sys2Proof.Proofs
end
